-- ==== Sys2Proof/Word.lean ====
section
/-! DEFINITION. The word types of the machine and the register numbers (00_scope.md R8, R12;
10_state.md R21, R24). Nothing here computes. -/

namespace Sys2Proof

/-- One byte of memory (R102). -/
abbrev Byte := BitVec 8

/-- A 32-bit value: `XLEN = 32`, and every CSR is read and written as one 32-bit value (R8, R24). -/
abbrev Word := BitVec 32

/-- A CSR address: 12 bits, 4096 addresses (R24, R100). -/
abbrev CsrAddr := BitVec 12

/-- A general register number, 0 to 31 (R21, R127). -/
abbrev Reg := Fin 32

end Sys2Proof
end

