-- ==== Sys2Proof/Config.lean ====
section
/-! DEFINITION. What an implementation fixes (the open parameters of 00_scope.md R10) and the values
the spec leaves free. A free value is an `opaque` constant: it has no body, so nothing proved of the
model can depend on what it is. The parameters a program's run can branch on (`core_kind`,
`RO_WRITE`, `WMASK`, `INT_VECTOR`) are plain data, so that a statement can speak of each setting;
State carries them unchanged (log entry 1). -/

namespace Sys2Proof

/-- The three kinds of baby RISCV core (R9; 90_conflicts.md C5: no fourth kind is modelled). The set
`T_INDICES` of indices `i` is not in the source, so any number may stand there. -/
inductive CoreKind where
  | b
  | nc
  | t (i : Nat)
  deriving DecidableEq, Repr, Inhabited

/-- `RO_WRITE` (R144): what a write attempt on a constant CSR does. -/
inductive RoWrite where
  | ignore
  | fault
  deriving DecidableEq, Repr, Inhabited

/-- `WMASK[a]` for the CSRs whose writable bits the source does not fix (R26). The masks the source
fixes are all ones and stand in `Machine.wmask`. -/
structure OpenMasks where
  fcsr : Word
  vxsat : Word
  vxrm : Word
  mcountinhibit : Word
  mhpmevent3 : Word
  mhpmevent4 : Word
  ttCfgQstatus : Word
  ttCfgBstatus : Word
  /-- Used on RISCV T<sub>i</sub> only (R73). -/
  ttCfgSstatus : Vector Word 8
  intpRestorePc : Word
  vl : Word
  vtype : Word
  vlenb : Word
  deriving DecidableEq, Repr, Inhabited

/-- The parameters of one core that no instruction changes (R10). -/
structure Params where
  coreKind : CoreKind
  roWrite : RoWrite
  masks : OpenMasks
  /-- `INT_VECTOR` (R197) without its two low bits, which are 0: the address is premised 4-byte aligned
  (92_eei_decisions.md D7). -/
  intVectorWord : BitVec 30
  deriving DecidableEq, Repr, Inhabited

/-- A hardware-written value of `tt_cfg_qstatus`, field by field (R70). The two copies R216 names
(bit 24, and the low mask on RISCV B and NC) are not drawn: `Machine.qstatusWord` makes them. -/
structure QstatusFeed where
  /-- Bits 10:0 on RISCV T<sub>i</sub>: the thread's own mask. -/
  threadMask : BitVec 11
  sfpuCc : Bool
  reserved12 : Bool
  /-- Bits 23:13. -/
  orMask : BitVec 11
  /-- Bits 31:25. -/
  reservedHigh : BitVec 7
  deriving DecidableEq, Repr, Inhabited

/-- A hardware-written value of `tt_cfg_bstatus`, field by field (R72). -/
structure BstatusFeed where
  threadMask : BitVec 11
  /-- Bits 21:11. -/
  orMask : BitVec 11
  /-- Bits 31:22. -/
  reservedHigh : BitVec 10
  deriving DecidableEq, Repr, Inhabited

/-- What the agents outside the core (00_scope.md R16, agents 2 to 5) do at ONE boundary between two
instructions. Every field is a draw of the spec; the operations of Machine/Environment.lean apply it. -/
structure Boundary where
  /-- `IntPending` holds at this boundary (R194). -/
  intPending : Bool
  /-- The `k` of `Tick` (R207). -/
  cycTicks : Nat
  /-- The `k` by which `iret` advances (R208). -/
  iretTicks : Nat
  /-- `HpmEvent(3, sel, env)` (R211) as pairs of a selector and its number of events; a selector that is
  not listed has none. -/
  hpm3Events : List (Word × Nat)
  /-- `HpmEvent(4, sel, env)` (R211). -/
  hpm4Events : List (Word × Nat)
  /-- `StatusFeed` (R215): `none` leaves the CSR as it stands. -/
  qstatus : Option QstatusFeed
  bstatus : Option BstatusFeed
  sstatus : Vector (Option Word) 8
  deriving DecidableEq, Repr, Inhabited

/-- The `form` argument of `VSET` (R171). -/
inductive VsetForm where
  | vli
  | ivli
  | vl
  deriving DecidableEq, Repr, Inhabited

/-- The `avl` argument of `VSET`: the requested length with its kind (R171). -/
inductive Avl where
  | register (v : Word)
  | immediate (v : Word)
  | maximum
  | keep
  deriving DecidableEq, Repr, Inhabited

/-! ## Free values and uninterpreted parameters -/

/-- `VSET(form, avl, req, old_vl, old_vtype)`, answering `(new_vl, new_vtype)`: "The model assumes
nothing of `VSET` except that it is a function of its arguments" (R171). Log entry 4. -/
opaque Config.vset : VsetForm → Avl → Word → Word → Word → Word × Word

/-- What the environment draws at the `n`-th boundary, where State lists no input for it (R16, R207,
R208, R211, R215). Log entry 2. -/
opaque Config.boundary : Nat → Boundary

/-- The draw for bit 64 of an HPM counter that carries out of 65 bits (R212): counter number,
boundary, index of the event within the boundary. Log entry 5. -/
opaque Config.hpmCarry : Nat → Nat → Nat → Bool

/-- The parameters of the core `State.reset` describes; the spec picks none of them (R10). Log entry 1. -/
opaque Config.params : Params

/-- `RESET[x1]` … `RESET[x31]` (R82, R232: "A model must not choose zero"). Log entry 3. -/
opaque Config.resetReg : Nat → Word

/-- `RESET[a]` for the stored 32-bit CSR at address `a` (R82, R232). Log entry 3. -/
opaque Config.resetCsr : CsrAddr → Word

/-- `RESET[cyc]` (R82, R232). Log entry 3. -/
opaque Config.resetCyc : BitVec 64

/-- `RESET[iret]` (R82, R232). Log entry 3. -/
opaque Config.resetIret : BitVec 64

/-- `RESET[hpm3]`, `RESET[hpm4]`, bits 63:0, by counter number (R82, R232). Log entry 3. -/
opaque Config.resetHpm : Nat → BitVec 64

/-- Bit 64 of `RESET[hpm3]`, `RESET[hpm4]`, by counter number (R82, R232). Log entry 3. -/
opaque Config.resetHpmTop : Nat → Bool

/-- `ret_pc` at reset (R82; D9: "`ret_pc` = unspecified at reset"). Log entry 3. -/
opaque Config.resetRetPc : Word

end Sys2Proof
end

