-- ==== Sys2Proof/Machine/State.lean ====
section
/-! DEFINITION. The state of one baby RISCV core (10_state.md R20, R28), the reasons a step can stop
(60_exceptions.md R192) and the reset event (10_state.md R82; 70_reset_and_hazards.md R230 to R234). -/

namespace Sys2Proof.Machine

/-- The two hardware performance counters, by the number in their names (R66, R67). -/
inductive HpmId where
  | three
  | four
  deriving DecidableEq, Repr

/-- A 65-bit HPM counter: bits 63:0, which the two CSR halves show, and bit 64, which no CSR address
reads (R66 to R68). -/
structure HpmCounter where
  bit64 : Bool
  low : BitVec 64
  deriving DecidableEq, Repr

/-- One stored 32-bit value for each CSR that R20 lists. The constant CSRs hold no state. -/
structure CsrFile where
  /-- `0x003` (R30, R31). -/
  fcsr : Word
  /-- `0x009` (R33). -/
  vxsat : Word
  /-- `0x00a` (R34). -/
  vxrm : Word
  /-- `0x320` (R39, R40). -/
  mcountinhibit : Word
  /-- `0x323` (R41). -/
  mhpmevent3 : Word
  /-- `0x324` (R42). -/
  mhpmevent4 : Word
  /-- `0x7c0` (R43 to R61); its fields are in Machine/Flags.lean. -/
  cfg0 : Word
  /-- `0x7c1` (R62). -/
  pmacfg0 : Word
  /-- `0x7c2` (R62). -/
  pmacfg1 : Word
  /-- `0x7c3` (R63). -/
  cfg1 : Word
  /-- `0x7c4` (R63). -/
  hwaMask : Word
  /-- `0x7c5` (R63). -/
  hwaCfg : Word
  /-- `0x7c6` (R63). -/
  vgsrc : Word
  /-- `0xbc0` (R70). -/
  ttCfgQstatus : Word
  /-- `0xbc1` (R72). -/
  ttCfgBstatus : Word
  /-- `0xbc2` to `0xbc9` (R73). -/
  ttCfgSstatus : Vector Word 8
  /-- `0xbca`, the readable copy of `ret_pc` (R74). -/
  intpRestorePc : Word
  /-- `0xc20` (R75). -/
  vl : Word
  /-- `0xc21` (R76). -/
  vtype : Word
  /-- `0xc22` (R77). -/
  vlenb : Word
  deriving DecidableEq, Repr

/-- Memory as the listed bytes, addresses strictly rising; an address that is not listed has no value
(log entry 6). -/
abbrev Memory := List Host.Cell

/-- The machine's state (R20, R80), memory, and three fields of the model's own: `params`, `inputs` and
`boundary` (log entries 1 and 2). -/
structure State where
  /-- `x1` to `x31`; `x0` is hard-wired and has no storage (R21). -/
  regs : Vector Word 31
  /-- The address of the instruction to be executed (R23). -/
  pc : Word
  csr : CsrFile
  /-- `mcycle`, `mcycleh` (R64). -/
  cyc : BitVec 64
  /-- `minstret`, `minstreth` (R65). -/
  iret : BitVec 64
  /-- `mhpmcounter3`, `mhpmcounter3h` and bit 64 (R66, R68). -/
  hpm3 : HpmCounter
  /-- `mhpmcounter4`, `mhpmcounter4h` and bit 64 (R67, R68). -/
  hpm4 : HpmCounter
  /-- `ret_pc`, "the `pc` to which `mret` will return" (R80a). -/
  retPc : Word
  /-- `in_handler` (R80b). -/
  inHandler : Bool
  mem : Memory
  /-- The core's parameters (R10); no step changes them. -/
  params : Params
  /-- What the environment does at the coming boundaries between instructions, next first (R16). Where
  the list is empty, `Config.boundary` draws and no interrupt is requested. -/
  inputs : List Boundary
  /-- The number of boundaries passed: the counter that numbers the draws. -/
  boundary : Nat
  deriving DecidableEq, Repr

/-- The instructions the spec decodes and gives no meaning (R176, R177). -/
inductive Unmodelled where
  | ecall
  | ebreak
  deriving DecidableEq, Repr

/-- The model faults: the first eight are the table of R192, whole. Each stops the machine where the
chip may go on, so each is safe: a true claim may become unprovable, no false one provable. -/
inductive Fault where
  /-- Raised by the six CSR instructions, for an address outside the 43 (R145). Safe. -/
  | unrecognisedCsr (a : CsrAddr)
  /-- Raised by the six CSR instructions: a write attempt on a constant CSR with `RO_WRITE = fault`
  (R144). Safe. -/
  | readOnlyCsrWrite (a : CsrAddr)
  /-- Raised by the six CSR instructions with a write (R153) and by the three `vset` instructions
  (R171), inside a handler. Safe. -/
  | csrWriteInHandler (a : CsrAddr)
  /-- Raised by the six CSR instructions when one reads and writes an HPM half under `PmcClrOnRd`
  (R154). Safe. -/
  | clearOnReadWithWrite (a : CsrAddr)
  /-- Raised by `mret` with no interrupt to return from (R178). Safe. -/
  | mretOutsideHandler
  /-- Raised by the interrupt source: a request during a handler (R200). Safe. -/
  | nestedInterrupt
  /-- Raised by `ecall` and `ebreak`, always (R176, R177). Safe. -/
  | unmodelled (m : Unmodelled)
  /-- Raised by the decoder: the word matches no row (R132). Safe. -/
  | illegalEncoding (w : Word)
  /-- Raised by the fetch at an address that is no multiple of 4: `MISALIGNED` is left open
  (20_memory.md R103; log entry 7). Safe. -/
  | misalignedFetch (pc : Word)
  /-- Raised by the fetch of a byte that has no value (log entry 6). Safe. -/
  | unwrittenFetch (pc : Word)
  deriving DecidableEq, Repr

/-- Why the model gives a step no meaning. All are safe. -/
inductive Refusal where
  /-- The instruction has no meaning yet. No arm of `exec` answers it. -/
  | notModelled (mnemonic : String)
  /-- Raised by the step while `cfg0.DisCsrSync` is set and `cfg0.SyncAllOps` clear (R240). -/
  | csrSyncDisabled
  /-- Raised by the interrupt entry and by every modelled instruction but the six CSR instructions
  while a `cfg0` field of unknown purpose is not 0 (R46; D20; U2). -/
  | unknownCfg0Setting
  deriving DecidableEq, Repr

/-- The answer of a step or of an instruction. -/
abbrev Result := Host.Outcome State Fault Refusal

/-! ## Reset -/

/-- What the spec leaves to the launch of the core: `RESET[s]` for every piece of state with an
unspecified reset value, `RESET_PC`, the parameters, the loaded memory and the environment's inputs
(R82, R232, R234). -/
structure Launch where
  regs : Vector Word 31
  pc : Word
  /-- Used but for `cfg0` and `vlenb`, whose reset values the source gives. -/
  csr : CsrFile
  cyc : BitVec 64
  iret : BitVec 64
  hpm3 : HpmCounter
  hpm4 : HpmCounter
  retPc : Word
  mem : Memory
  params : Params
  inputs : List Boundary
  deriving DecidableEq, Repr

/-- The reset event, for every launch (R82): the source gives `cfg0` (R44: all fields clear but
`StMergeTimer` = 16) and `vlenb` ("Value is initially `16`", R77); `in_handler` is false. -/
def State.launch (l : Launch) : State :=
  { regs := l.regs
    pc := l.pc
    csr := { l.csr with cfg0 := 0x00020000#32, vlenb := 16#32 }
    cyc := l.cyc
    iret := l.iret
    hpm3 := l.hpm3
    hpm4 := l.hpm4
    retPc := l.retPc
    inHandler := false
    mem := l.mem
    params := l.params
    inputs := l.inputs
    boundary := 0 }

/-- The `CsrFile` of `RESET[a]`, by address (R232). -/
def resetCsrFile : CsrFile :=
  { fcsr := Config.resetCsr 0x003#12
    vxsat := Config.resetCsr 0x009#12
    vxrm := Config.resetCsr 0x00a#12
    mcountinhibit := Config.resetCsr 0x320#12
    mhpmevent3 := Config.resetCsr 0x323#12
    mhpmevent4 := Config.resetCsr 0x324#12
    cfg0 := Config.resetCsr 0x7c0#12
    pmacfg0 := Config.resetCsr 0x7c1#12
    pmacfg1 := Config.resetCsr 0x7c2#12
    cfg1 := Config.resetCsr 0x7c3#12
    hwaMask := Config.resetCsr 0x7c4#12
    hwaCfg := Config.resetCsr 0x7c5#12
    vgsrc := Config.resetCsr 0x7c6#12
    ttCfgQstatus := Config.resetCsr 0xbc0#12
    ttCfgBstatus := Config.resetCsr 0xbc1#12
    ttCfgSstatus := Vector.ofFn fun i => Config.resetCsr (0xbc2#12 + BitVec.ofNat 12 i.val)
    intpRestorePc := Config.resetCsr 0xbca#12
    vl := Config.resetCsr 0xc20#12
    vtype := Config.resetCsr 0xc21#12
    vlenb := Config.resetCsr 0xc22#12 }

/-- The launch of `State.reset`: every `RESET[s]` uninterpreted (R232; log entry 3), nothing loaded and
no input listed. DESIGN CHOICE: `RESET_PC` = 0, the premise of the spec's programs P1 and P7 (log
entry 8). -/
def resetLaunch : Launch :=
  { regs := Vector.ofFn fun i => Config.resetReg (i.val + 1)
    pc := 0x00000000#32
    csr := resetCsrFile
    cyc := Config.resetCyc
    iret := Config.resetIret
    hpm3 := { bit64 := Config.resetHpmTop 3, low := Config.resetHpm 3 }
    hpm4 := { bit64 := Config.resetHpmTop 4, low := Config.resetHpm 4 }
    retPc := Config.resetRetPc
    mem := []
    params := Config.params
    inputs := [] }

/-- The machine right after reset. -/
def State.reset : State := State.launch resetLaunch

end Sys2Proof.Machine
end

