-- ==== Sys2Proof/Machine/Flags.lean ====
section
/-! DEFINITION. The fields of the status and configuration CSRs. The hardware has no condition codes,
and no instruction of the spec sets a flag as a side effect (10_state.md R29; 40_csr_instructions.md,
"Flags written"); what a flag-like bit means is read here, in one place per field. -/

namespace Sys2Proof.Machine

/-! ## `cfg0` (R43; "First bit" and "# Bits" of the source's table) -/

namespace Cfg0

/-- Bit 0, purpose not in the source (R46). -/
def disLdBufByp (c : Word) : Bool := c.getLsbD 0
/-- Bit 1 (R47). -/
def disBp (c : Word) : Bool := c.getLsbD 1
/-- Bit 2 (R48). -/
def disIcPrefetch (c : Word) : Bool := c.getLsbD 2
/-- Bit 3; the spelling is the source's (R49; 90_conflicts.md C8). -/
def disLowCash (c : Word) : Bool := c.getLsbD 3
/-- Bit 4, purpose not in the source (R46). -/
def disableDataEcc (c : Word) : Bool := c.getLsbD 4
/-- Bit 7 (R50). -/
def disPmcWrapArnd (c : Word) : Bool := c.getLsbD 7
/-- Bit 8 (R51). -/
def pmcClrOnRd (c : Word) : Bool := c.getLsbD 8
/-- Bit 9 (R52). -/
def syncAllOps (c : Word) : Bool := c.getLsbD 9
/-- Bit 10 (R53). -/
def disCsrSync (c : Word) : Bool := c.getLsbD 10
/-- Bit 11, purpose not in the source (R46). -/
def disVec128b (c : Word) : Bool := c.getLsbD 11
/-- Bit 12 (R54). -/
def disStMerge (c : Word) : Bool := c.getLsbD 12
/-- Bits 17:13, a number of cycles (R55). -/
def stMergeTimer (c : Word) : Nat := (c.extractLsb' 13 5).toNat
/-- Bit 18 (R56). -/
def disTriscCache (c : Word) : Bool := c.getLsbD 18
/-- Bit 19, purpose not in the source (R46). -/
def disMultiMemLdOps (c : Word) : Bool := c.getLsbD 19
/-- Bit 20 (R57). -/
def disRegForwarding (c : Word) : Bool := c.getLsbD 20
/-- Bit 24 (R58). -/
def disLowCachePeriodicFlush (c : Word) : Bool := c.getLsbD 24
/-- Bits 27:26, purpose not in the source (R46). -/
def bpHistSel (c : Word) : BitVec 2 := c.extractLsb' 26 2
/-- Bit 28, purpose not in the source (R46). -/
def enRespOrderFifo (c : Word) : Bool := c.getLsbD 28
/-- Bit 29 (R59). -/
def disTTStatusReg (c : Word) : Bool := c.getLsbD 29
/-- Bit 30 (R60). -/
def enBFloat (c : Word) : Bool := c.getLsbD 30
/-- Bit 31 (R61). -/
def enBFloatRTNE (c : Word) : Bool := c.getLsbD 31

/-- The bits of the three Reserved fields, 6:5, 23:21 and 25: "Mutable, but no effect on execution"
(R45). -/
def reservedMask : Word := 0x02e00060#32

/-- One of the six fields whose purpose the source leaves empty differs from its reset value 0: the
state is outside what the spec describes for anything but CSR reads and writes (R46; D20; U2). -/
def unknownSetting (c : Word) : Bool :=
  disLdBufByp c || disableDataEcc c || disVec128b c || disMultiMemLdOps c || (bpHistSel c != 0#2) ||
    enRespOrderFifo c

/-- The pipeline is not serialised behind a CSR write: "every later step is outside what this spec
describes" (R240; D28). -/
def unsynchronised (c : Word) : Bool := disCsrSync c && !syncAllOps c

end Cfg0

/-- The number format and rounding of a "Zfh" instruction (R60, R61). -/
inductive ZfhFormat where
  | fp16
  /-- BF16, results rounded toward zero. -/
  | bf16Rtz
  /-- BF16, results rounded to nearest, ties to even. -/
  | bf16Rtne
  deriving DecidableEq, Repr

/-- What "Zfh" instructions operate on under a `cfg0` value: bit 31 matters only when bit 30 is set
(R60, R61). The `fcsr` rounding bits play no part (R30). -/
def zfhFormat (cfg0 : Word) : ZfhFormat :=
  if Cfg0.enBFloat cfg0 then
    if Cfg0.enBFloatRTNE cfg0 then .bf16Rtne else .bf16Rtz
  else .fp16

/-! ## `fcsr`, `mcountinhibit`, `vtype` under the named standards (R31, R40, R76) -/

/-- `fcsr` bit 0 (R31). -/
def fcsrNX (v : Word) : Bool := v.getLsbD 0
/-- `fcsr` bit 1 (R31). -/
def fcsrUF (v : Word) : Bool := v.getLsbD 1
/-- `fcsr` bit 2 (R31). -/
def fcsrOF (v : Word) : Bool := v.getLsbD 2
/-- `fcsr` bit 3 (R31). -/
def fcsrDZ (v : Word) : Bool := v.getLsbD 3
/-- `fcsr` bit 4 (R31). -/
def fcsrNV (v : Word) : Bool := v.getLsbD 4
/-- `fcsr` bits 7:5: "Hardware ignores rounding mode bits" (R30, R31). -/
def fcsrFrm (v : Word) : BitVec 3 := v.extractLsb' 5 3

/-- The number in a counter's CSR names. -/
def HpmId.number : HpmId → Nat
  | .three => 3
  | .four => 4

/-- `mcountinhibit` bit `n` stops `mhpmcounter`n, for the two counters there are (R40, R206). Bits 0 and
2 stop nothing (R39) and have no reader. -/
def hpmInhibited (mcountinhibit : Word) (n : HpmId) : Bool := mcountinhibit.getLsbD n.number

/-! ## `tt_cfg_qstatus` and `tt_cfg_bstatus` (R70 to R72) -/

/-- The instruction types of an 11-bit mask (R71). -/
inductive TensixKind where
  | replay
  | mop
  | thcon
  | mover
  | unpacker
  | packer
  | configuration
  | sync
  /-- Miscellaneous Unit, Mover, Scalar Unit (ThCon), Packer, or Unpacker. -/
  | miscellaneous
  | sfpu
  | fpu
  deriving DecidableEq, Repr

/-- The index of a type's bit within a mask (R71). -/
def TensixKind.bit : TensixKind → Nat
  | .replay => 0
  | .mop => 1
  | .thcon => 2
  | .mover => 3
  | .unpacker => 4
  | .packer => 5
  | .configuration => 6
  | .sync => 7
  | .miscellaneous => 8
  | .sfpu => 9
  | .fpu => 10

/-- A mask names the type (R71). -/
def maskHas (mask : BitVec 11) (k : TensixKind) : Bool := mask.getLsbD k.bit

namespace Qstatus

/-- Bits 10:0, `tensix_issue_queue_status` (R70). -/
def queueMask (v : Word) : BitVec 11 := v.extractLsb' 0 11
/-- Bit 11, `sfpu_cc` (R70, R214). -/
def sfpuCc (v : Word) : Bool := v.getLsbD 11
/-- Bits 23:13, `or_reduced_tensix_issue_queue_status` (R70). -/
def orMask (v : Word) : BitVec 11 := v.extractLsb' 13 11
/-- Bit 24, "Copy of bit 11" (R70; 90_conflicts.md C4). -/
def sfpuCcCopy (v : Word) : Bool := v.getLsbD 24

end Qstatus

namespace Bstatus

/-- Bits 10:0, `tensix_busy_status` (R72). -/
def busyMask (v : Word) : BitVec 11 := v.extractLsb' 0 11
/-- Bits 21:11, `or_reduced_tensix_busy_status` (R72). -/
def orMask (v : Word) : BitVec 11 := v.extractLsb' 11 11

end Bstatus

/-! ## `pmacfg0`, `pmacfg1` (R62) -/

/-- Bit 0, the enable; bits 31:1 select nothing (R62, R108). -/
def pmacfgEn (v : Word) : Bool := v.getLsbD 0

end Sys2Proof.Machine
end

