-- ==== Sys2Proof/Machine/Ops.lean ====
section
/-! DEFINITION. The named operations over registers, counter halves and memory, and the interrupt entry
and return that every meaning and the step share. -/

namespace Sys2Proof.Machine

/-! ## General registers and `pc` (R12, R21, R23) -/

/-- `x[r]`; `x[0]` reads 0. -/
def readReg (s : State) (r : Reg) : Word :=
  if h : r = 0 then 0#32 else s.regs[r.val - 1]

/-- `x[r] <- v`; a write to `x[0]` is discarded. -/
def writeReg (r : Reg) (v : Word) (s : State) : State :=
  if h : r = 0 then s else { s with regs := s.regs.set (r.val - 1) v }

/-- `pc <- t`. -/
def setPc (t : Word) (s : State) : State := { s with pc := t }

/-- `pc <- pc + 4`, modulo 2^32. -/
def advancePc (s : State) : State := setPc (s.pc + 4#32) s

/-! ## The 32-bit halves of a 64-bit counter (R64 to R67, R140) -/

/-- Bits 31:0. -/
def lowHalf (c : BitVec 64) : Word := c.extractLsb' 0 32

/-- Bits 63:32. -/
def highHalf (c : BitVec 64) : Word := c.extractLsb' 32 32

/-- Replace bits 31:0. -/
def setLowHalf (c : BitVec 64) (v : Word) : BitVec 64 := highHalf c ++ v

/-- Replace bits 63:32. -/
def setHighHalf (c : BitVec 64) (v : Word) : BitVec 64 := v ++ lowHalf c

/-- The HPM counter of a number. -/
def hpm (n : HpmId) (s : State) : HpmCounter :=
  match n with
  | .three => s.hpm3
  | .four => s.hpm4

/-- Replace an HPM counter. -/
def setHpm (n : HpmId) (h : HpmCounter) (s : State) : State :=
  match n with
  | .three => { s with hpm3 := h }
  | .four => { s with hpm4 := h }

/-! ## Memory

The data and instruction address space has 32-bit addresses (R101), and nothing else of it is in the
source. No instruction of the spec loads or stores; fetch reads memory and `State.withFetchWord` writes
it. -/

/-- The byte at an address; `none` where nothing is listed (log entry 6). -/
def Memory.read : Memory → Nat → Option Byte
  | [], _ => none
  | (k, b) :: rest, a => if a = k then some b else Memory.read rest a

/-- Store one byte, keeping the addresses strictly rising. -/
def Memory.write : Memory → Nat → Byte → Memory
  | [], a, b => [(a, b)]
  | (k, c) :: rest, a, b =>
    if a < k then (a, b) :: (k, c) :: rest
    else if a = k then (a, b) :: rest
    else (k, c) :: Memory.write rest a b

/-- The canonical form: addresses strictly rising, each a 32-bit address. -/
abbrev Memory.wf (m : Memory) : Prop :=
  m.Pairwise (fun c d => c.1 < d.1) ∧ ∀ c ∈ m, c.1 < 2 ^ 32

/-- `MemRead(addr, n)`: `n` bytes from `addr` on, lowest address first; addresses are 32 bits (R12,
R102). -/
def memRead (m : Memory) (addr : Word) : Nat → Option (List Byte)
  | 0 => some []
  | n + 1 => (m.read addr.toNat).bind fun b => (memRead m (addr + 1#32) n).map (b :: ·)

/-- `MemWrite(addr, n, v)`, the value as its bytes, lowest address first (R12, R102). -/
def memWrite (m : Memory) (addr : Word) : List Byte → Memory
  | [] => m
  | b :: rest => memWrite (m.write addr.toNat b) (addr + 1#32) rest

/-- An address is a multiple of 4 (R23, R121). -/
def aligned4 (a : Word) : Bool := a.extractLsb' 0 2 == 0#2

/-! ## Interrupt entry and return (60_exceptions.md R197, R199) -/

/-- `INT_VECTOR`, "a 32-bit aligned address" (R197; D11). -/
def intVector (p : Params) : Word := p.intVectorWord ++ 0#2

/-- `IntEntry` (R197): `ret_pc <- pc`, `CSR[0xbca] <- ret_pc`, `in_handler <- true`,
`pc <- INT_VECTOR`. It changes nothing else (D11). The spec gives the machine no other exception (R190). -/
def intEntry (s : State) : State :=
  { s with
    retPc := s.pc
    csr := { s.csr with intpRestorePc := s.pc }
    inHandler := true
    pc := intVector s.params }

/-- The return from a handler (R199): `pc <- ret_pc`, `in_handler <- false`, nothing else. -/
def intReturn (s : State) : State := { s with pc := s.retPc, inHandler := false }

/-! ## Outcomes -/

/-- Apply a function to the next state of an outcome; a fault or a refusal stays as it is. -/
def mapNext (f : State → State) : Result → Result
  | .next s => .next (f s)
  | .fault r => .fault r
  | .refused r => .refused r

end Sys2Proof.Machine
end

