-- ==== Sys2Proof/Syntax.lean ====
section
/-! DEFINITION. The instructions: one constructor per row of spec/opcode_table.json (30_encoding.md
R120, R128). `fadd.h` and `.ttinsn` have no row and no constructor (R130, R131). -/

namespace Sys2Proof

/-- The access kinds a `fence` names in `pred` and in `succ` (R125: bit 3 `i`, 2 `o`, 1 `r`, 0 `w` of
each field). -/
structure FenceSet where
  i : Bool
  o : Bool
  r : Bool
  w : Bool
  deriving DecidableEq, Repr

/-- The thirteen instructions of the spec. Operands are in assembler order (R134). -/
inductive Instr where
  /-- `csrrw rd, csr, rs1` (R146). -/
  | csrrw (rd : Reg) (csr : CsrAddr) (rs1 : Reg)
  /-- `csrrs rd, csr, rs1` (R147). -/
  | csrrs (rd : Reg) (csr : CsrAddr) (rs1 : Reg)
  /-- `csrrc rd, csr, rs1` (R148). -/
  | csrrc (rd : Reg) (csr : CsrAddr) (rs1 : Reg)
  /-- `csrrwi rd, csr, uimm` (R149). -/
  | csrrwi (rd : Reg) (csr : CsrAddr) (uimm : BitVec 5)
  /-- `csrrsi rd, csr, uimm` (R150). -/
  | csrrsi (rd : Reg) (csr : CsrAddr) (uimm : BitVec 5)
  /-- `csrrci rd, csr, uimm` (R151). -/
  | csrrci (rd : Reg) (csr : CsrAddr) (uimm : BitVec 5)
  /-- `vsetvli rd, rs1, vtypei` (R172): `zimm` is 11 bits. -/
  | vsetvli (rd : Reg) (rs1 : Reg) (zimm : BitVec 11)
  /-- `vsetivli rd, uimm, vtypei` (R173): the encoding holds 10 bits of `zimm` (WellFormed). -/
  | vsetivli (rd : Reg) (uimm : BitVec 5) (zimm : BitVec 11)
  /-- `vsetvl rd, rs1, rs2` (R174). -/
  | vsetvl (rd : Reg) (rs1 : Reg) (rs2 : Reg)
  /-- `fence pred, succ` with the `fm` field (R125, R175). -/
  | fence (fm : BitVec 4) (pred : FenceSet) (succ : FenceSet)
  /-- `ecall` (R176). -/
  | ecall
  /-- `ebreak` (R177). -/
  | ebreak
  /-- `mret` (R178). -/
  | mret
  deriving DecidableEq, Repr

end Sys2Proof
end

