-- ==== Sys2Proof/Machine/MemoryOrder.lean ====
section
/-! DEFINITION. What the CSR file settles for loads, stores and the pipeline (20_memory.md R107 to R111,
R115 to R117; 70_reset_and_hazards.md R240, R246). No instruction of the spec loads or stores, so these
are the facts a model that adds them takes from State; the step uses `unsynchronised` only. -/

namespace Sys2Proof.Machine

/-- `strong` of R107: with the low bit of either `pmacfg` set, every load and store behaves as if a
`fence` stood immediately before it, at every address (R108). -/
def stronglyOrdered (s : State) : Bool := pmacfgEn s.csr.pmacfg0 || pmacfgEn s.csr.pmacfg1

/-- The store queue can coalesce two temporally adjacent stores (R109): `DisStMerge` is clear, the second
comes within `StMergeTimer` cycles, both target L1, in one 16-byte aligned region, and their starting byte
addresses are within ±4. Which addresses are L1 is not in the source: `targetsL1` is the part of `DATA_MEM` that
a model with stores supplies (log entry 27). "Can": the merged and the unmerged outcome are both allowed. -/
def mayCoalesce (targetsL1 : Word → Bool) (cfg0 addr₁ addr₂ : Word) (cyclesBetween : Nat) : Bool :=
  !Cfg0.disStMerge cfg0 && decide (cyclesBetween ≤ Cfg0.stMergeTimer cfg0) &&
    targetsL1 addr₁ && targetsL1 addr₂ &&
    (addr₁.extractLsb' 4 28 == addr₂.extractLsb' 4 28) &&
    decide (addr₁.toNat ≤ addr₂.toNat + 4 ∧ addr₂.toNat ≤ addr₁.toNat + 4)

/-- The instruction is in the `cfg0.DisCsrSync` list (R53, R179). -/
def inCsrSyncList : Instr → Bool
  | .csrrw _ _ _ => true
  | .csrrs _ _ _ => true
  | .csrrc _ _ _ => true
  | .csrrwi _ _ _ => true
  | .csrrsi _ _ _ => true
  | .csrrci _ _ _ => true
  | .vsetvli _ _ _ => true
  | .vsetivli _ _ _ => true
  | .vsetvl _ _ _ => true
  | .fence _ _ _ => true
  | .ecall => true
  | .ebreak => true
  | .mret => false

/-- The next instruction leaves the frontend only when this one has retired (R52, R53). -/
def drainsPipeline (cfg0 : Word) (i : Instr) : Bool :=
  Cfg0.syncAllOps cfg0 || (!Cfg0.disCsrSync cfg0 && inCsrSyncList i)

/-- The length in bytes of the vector registers the hardware executes with; a write to `vlenb` does not
change it (R77, R80d). DEDUCED from `vlenb`'s reset value (log entry 13). -/
def vectorRegisterBytes : Nat := 16

end Sys2Proof.Machine
end

