-- ==== Sys2Proof/WellFormed.lean ====
section
/-! DEFINITION. Which instruction terms an encoding exists for (30_encoding.md R127). Every operand but
one has exactly the width of its field in its type; `vsetivli` shares the 11-bit `zimm` of `vsetvli`, and
its encoding holds 10 bits of it. -/

namespace Sys2Proof

/-- The term has an encoding: "`vsetivli`: `zimm = w[29:20]`, 10 bits, zero-extended" (R127). -/
def Instr.wellFormed : Instr → Bool
  | .csrrw _ _ _ => true
  | .csrrs _ _ _ => true
  | .csrrc _ _ _ => true
  | .csrrwi _ _ _ => true
  | .csrrsi _ _ _ => true
  | .csrrci _ _ _ => true
  | .vsetvli _ _ _ => true
  | .vsetivli _ _ zimm => !zimm.getLsbD 10
  | .vsetvl _ _ _ => true
  | .fence _ _ _ => true
  | .ecall => true
  | .ebreak => true
  | .mret => true

end Sys2Proof
end

