-- ==== Sys2Proof/Decode.lean ====
section
/-! DEFINITION. The decoder (30_encoding.md R121 to R129, R132), total on any bytes and rejecting by
name, and the encoder written from the same tables. All encodings are the spec's decision D2. -/

namespace Sys2Proof

/-! ## Fields (R122 to R127) -/

/-- The register number in a 5-bit field. -/
def regOfField (f : BitVec 5) : Reg := f.toFin

/-- The 5-bit field that holds a register number. -/
def fieldOfReg (r : Reg) : BitVec 5 := BitVec.ofFin (w := 5) r

/-- `rd = w[11:7]`. -/
def rdOf (w : Word) : Reg := regOfField (w.extractLsb' 7 5)

/-- `rs1 = w[19:15]`. -/
def rs1Of (w : Word) : Reg := regOfField (w.extractLsb' 15 5)

/-- `rs2 = w[24:20]`. -/
def rs2Of (w : Word) : Reg := regOfField (w.extractLsb' 20 5)

/-- `csr = w[31:20]`. -/
def csrOf (w : Word) : CsrAddr := w.extractLsb' 20 12

/-- `uimm = w[19:15]`. -/
def uimmOf (w : Word) : BitVec 5 := w.extractLsb' 15 5

/-- `vsetvli`: `zimm = w[30:20]`. -/
def zimm11Of (w : Word) : BitVec 11 := w.extractLsb' 20 11

/-- `vsetivli`: `zimm = w[29:20]`, zero-extended. -/
def zimm10Of (w : Word) : BitVec 11 := (w.extractLsb' 20 10).setWidth 11

/-- A `pred` or `succ` field: `i`, `o`, `r`, `w` from the high bit down (R125). -/
def fenceSetOf (f : BitVec 4) : FenceSet :=
  { i := f.getLsbD 3, o := f.getLsbD 2, r := f.getLsbD 1, w := f.getLsbD 0 }

/-- The field a `pred` or `succ` set is written as (R125). -/
def fieldOfFenceSet (f : FenceSet) : BitVec 4 :=
  BitVec.ofBool f.i ++ BitVec.ofBool f.o ++ BitVec.ofBool f.r ++ BitVec.ofBool f.w

/-! ## The opcode map (R128) -/

/-- The rows of the opcode table, by mnemonic. -/
inductive Mnemonic where
  | csrrw | csrrs | csrrc | csrrwi | csrrsi | csrrci
  | vsetvli | vsetivli | vsetvl | fence | ecall | ebreak | mret
  deriving DecidableEq, Repr

/-- One row of the opcode map: a word is that instruction exactly when `(w & mask) == pattern`. -/
structure OpcodeRow where
  mnemonic : Mnemonic
  mask : Word
  pattern : Word
  deriving DecidableEq, Repr

/-- The thirteen rows of R128, in its order. -/
def opcodeMap : List OpcodeRow :=
  [ ⟨.csrrw,    0x0000707f#32, 0x00001073#32⟩,
    ⟨.csrrs,    0x0000707f#32, 0x00002073#32⟩,
    ⟨.csrrc,    0x0000707f#32, 0x00003073#32⟩,
    ⟨.csrrwi,   0x0000707f#32, 0x00005073#32⟩,
    ⟨.csrrsi,   0x0000707f#32, 0x00006073#32⟩,
    ⟨.csrrci,   0x0000707f#32, 0x00007073#32⟩,
    ⟨.vsetvli,  0x8000707f#32, 0x00007057#32⟩,
    ⟨.vsetivli, 0xc000707f#32, 0xc0007057#32⟩,
    ⟨.vsetvl,   0xfe00707f#32, 0x80007057#32⟩,
    ⟨.fence,    0x0000707f#32, 0x0000000f#32⟩,
    ⟨.ecall,    0xffffffff#32, 0x00000073#32⟩,
    ⟨.ebreak,   0xffffffff#32, 0x00100073#32⟩,
    ⟨.mret,     0xffffffff#32, 0x30200073#32⟩ ]

/-- The row matches the word. -/
def OpcodeRow.matches (row : OpcodeRow) (w : Word) : Bool := w &&& row.mask == row.pattern

/-- The instruction a word is, once its row is known: the fields of R127. -/
def decodeFields (m : Mnemonic) (w : Word) : Instr :=
  match m with
  | .csrrw => .csrrw (rdOf w) (csrOf w) (rs1Of w)
  | .csrrs => .csrrs (rdOf w) (csrOf w) (rs1Of w)
  | .csrrc => .csrrc (rdOf w) (csrOf w) (rs1Of w)
  | .csrrwi => .csrrwi (rdOf w) (csrOf w) (uimmOf w)
  | .csrrsi => .csrrsi (rdOf w) (csrOf w) (uimmOf w)
  | .csrrci => .csrrci (rdOf w) (csrOf w) (uimmOf w)
  | .vsetvli => .vsetvli (rdOf w) (rs1Of w) (zimm11Of w)
  | .vsetivli => .vsetivli (rdOf w) (uimmOf w) (zimm10Of w)
  | .vsetvl => .vsetvl (rdOf w) (rs1Of w) (rs2Of w)
  | .fence =>
    .fence (w.extractLsb' 28 4) (fenceSetOf (w.extractLsb' 24 4)) (fenceSetOf (w.extractLsb' 20 4))
  | .ecall => .ecall
  | .ebreak => .ebreak
  | .mret => .mret

/-! ## The decoder -/

/-- Why bytes are no instruction. -/
inductive Reject where
  /-- Fewer than the four bytes of an instruction word (R121). -/
  | truncated
  /-- The word matches no row: the spec's decoder answers `Unmodelled` for it (R132). -/
  | unmodelled (w : Word)
  deriving DecidableEq, Repr

/-- The instruction of one word (R128, R129): the rows do not overlap, so their order does not
matter. -/
def decodeWord (w : Word) : Except Reject Instr :=
  match opcodeMap.find? (·.matches w) with
  | some row => .ok (decodeFields row.mnemonic w)
  | none => .error (.unmodelled w)

/-- Four bytes as a word, the byte at the lowest address in bits 7:0 (R102, R121). -/
def wordOfBytes (b0 b1 b2 b3 : Byte) : Word := b3 ++ b2 ++ b1 ++ b0

/-- A word as the four bytes memory holds, lowest address first (R102, R121). -/
def bytesOfWord (w : Word) : List Byte :=
  [w.extractLsb' 0 8, w.extractLsb' 8 8, w.extractLsb' 16 8, w.extractLsb' 24 8]

/-- Decode the instruction at the head of a list of bytes, and the bytes after it. Length never
varies (R121, R133). -/
def decode : List Byte → Except Reject (Instr × List Byte)
  | b0 :: b1 :: b2 :: b3 :: rest => (decodeWord (wordOfBytes b0 b1 b2 b3)).map (·, rest)
  | _ => .error .truncated

/-- The instruction the decoder reads from a row's word `w` of `nbits` bits, laid out as the hardware
stores it; bits above `nbits` are zero. -/
def decodeTableWord (nbits w : Nat) : Option Instr :=
  match decode (bytesOfWord (BitVec.ofNat 32 (w % 2 ^ nbits))) with
  | .ok (i, _) => some i
  | .error _ => none

/-! ## The encoder (R122 to R126) -/

/-- Formats CSR-R and CSR-I (R122, R123): the middle field is `rs1` or `uimm`; opcode SYSTEM. -/
def encodeCsr (csr : CsrAddr) (mid : BitVec 5) (funct3 : BitVec 3) (rd : Reg) : Word :=
  csr ++ mid ++ funct3 ++ fieldOfReg rd ++ 0b1110011#7

/-- The word of an instruction. -/
def encodeWord : Instr → Word
  | .csrrw rd csr rs1 => encodeCsr csr (fieldOfReg rs1) 0b001#3 rd
  | .csrrs rd csr rs1 => encodeCsr csr (fieldOfReg rs1) 0b010#3 rd
  | .csrrc rd csr rs1 => encodeCsr csr (fieldOfReg rs1) 0b011#3 rd
  | .csrrwi rd csr uimm => encodeCsr csr uimm 0b101#3 rd
  | .csrrsi rd csr uimm => encodeCsr csr uimm 0b110#3 rd
  | .csrrci rd csr uimm => encodeCsr csr uimm 0b111#3 rd
  | .vsetvli rd rs1 zimm => 0b0#1 ++ zimm ++ fieldOfReg rs1 ++ 0b111#3 ++ fieldOfReg rd ++ 0b1010111#7
  | .vsetivli rd uimm zimm =>
    0b11#2 ++ zimm.setWidth 10 ++ uimm ++ 0b111#3 ++ fieldOfReg rd ++ 0b1010111#7
  | .vsetvl rd rs1 rs2 =>
    0b10#2 ++ 0b00000#5 ++ fieldOfReg rs2 ++ fieldOfReg rs1 ++ 0b111#3 ++ fieldOfReg rd ++ 0b1010111#7
  | .fence fm pred succ =>
    fm ++ fieldOfFenceSet pred ++ fieldOfFenceSet succ ++ 0b00000#5 ++ 0b000#3 ++ 0b00000#5 ++ 0b0001111#7
  | .ecall => 0x00000073#32
  | .ebreak => 0x00100073#32
  | .mret => 0x30200073#32

/-- The bytes of an instruction in memory, lowest address first. -/
def encode (i : Instr) : List Byte := bytesOfWord (encodeWord i)

/-- The row of the opcode map an instruction belongs to. -/
def Instr.mnemonic : Instr → Mnemonic
  | .csrrw _ _ _ => .csrrw
  | .csrrs _ _ _ => .csrrs
  | .csrrc _ _ _ => .csrrc
  | .csrrwi _ _ _ => .csrrwi
  | .csrrsi _ _ _ => .csrrsi
  | .csrrci _ _ _ => .csrrci
  | .vsetvli _ _ _ => .vsetvli
  | .vsetivli _ _ _ => .vsetivli
  | .vsetvl _ _ _ => .vsetvl
  | .fence _ _ _ => .fence
  | .ecall => .ecall
  | .ebreak => .ebreak
  | .mret => .mret

end Sys2Proof
end

