-- ==== Sys2Proof/Machine/Operands.lean ====
section
/-! DEFINITION. The operand forms: the source of a CSR instruction, its `do_read` and `do_write`
conditions, and the operands of the `vset` instructions. -/

namespace Sys2Proof.Machine

/-- The source field of a CSR instruction: a register number or a 5-bit immediate (R122, R123). -/
inductive CsrSource where
  | reg (r : Reg)
  | imm (u : BitVec 5)
  deriving DecidableEq, Repr

/-- The operand `s` of R152: `x[rs1]`, or `zext_32(uimm)`, "never sign-extended" (R127). -/
def CsrSource.value (src : CsrSource) (s : State) : Word :=
  match src with
  | .reg r => readReg s r
  | .imm u => u.setWidth 32

/-- The source FIELD is 0: "the test is on the register number, not on the value" (R147). -/
def CsrSource.isZeroField : CsrSource → Bool
  | .reg r => r == 0
  | .imm u => u == 0#5

/-- The three kinds of step 6 of R152. -/
inductive CsrKind where
  | write
  | set
  | clear
  deriving DecidableEq, Repr

/-- Step 6 of R152: the new value, from the value read and the operand. -/
def CsrKind.combine (k : CsrKind) (t src : Word) : Word :=
  match k with
  | .write => src
  | .set => t ||| src
  | .clear => t &&& ~~~src

/-- `do_read`: the read/write forms read only into a register that is not `x0`; the set and clear forms
always read (R146 to R151). -/
def doRead (k : CsrKind) (rd : Reg) : Bool :=
  match k with
  | .write => rd != 0
  | .set => true
  | .clear => true

/-- `do_write`: the read/write forms always write; the set and clear forms write unless their source
field is 0 (R146 to R151). -/
def doWrite (k : CsrKind) (src : CsrSource) : Bool :=
  match k with
  | .write => true
  | .set => !src.isZeroField
  | .clear => !src.isZeroField

/-- The `avl` argument of `vsetvli` and `vsetvl` (R172, R174). -/
def avlOfReg (rd rs1 : Reg) (s : State) : Avl :=
  if rs1 != 0 then .register (readReg s rs1)
  else if rd != 0 then .maximum
  else .keep

/-- The `avl` argument of `vsetivli`: the immediate, zero-extended (R173). -/
def avlOfImm (uimm : BitVec 5) : Avl := .immediate (uimm.setWidth 32)

/-- The requested `vtype` in an immediate, zero-extended (R172, R173). -/
def reqOfImm (zimm : BitVec 11) : Word := zimm.setWidth 32

end Sys2Proof.Machine
end

