-- ==== Sys2Proof/Machine/Csr.lean ====
section
/-! DEFINITION. The CSR address space (10_state.md R22, R27; 40_csr_instructions.md R140), the two
primitives `CsrRead` and `CsrWrite` (R141 to R143) and the common rule of the six CSR instructions
(R152). -/

namespace Sys2Proof.Machine

/-- The storage behind a CSR address (R140). Two addresses of one store are aliases (R27). -/
inductive CsrStore where
  | fcsr
  | vxsat
  | vxrm
  | mcountinhibit
  | mhpmevent (n : HpmId)
  | cfg0
  | pmacfg0
  | pmacfg1
  | cfg1
  | hwaMask
  | hwaCfg
  | vgsrc
  | cycLow
  | cycHigh
  | iretLow
  | iretHigh
  | hpmLow (n : HpmId)
  | hpmHigh (n : HpmId)
  | ttCfgQstatus
  | ttCfgBstatus
  | ttCfgSstatus (i : Fin 8)
  | intpRestorePc
  | vl
  | vtype
  | vlenb
  deriving DecidableEq, Repr

/-- What a recognised address reaches: one fixed value, or storage (R25, R140). -/
inductive CsrHome where
  | constant (v : Word)
  | storage (r : CsrStore)
  deriving DecidableEq, Repr

/-- `Const(a)` (R140). -/
def CsrHome.isConstant : CsrHome → Bool
  | .constant _ => true
  | .storage _ => false

/-- A half of an HPM counter. -/
def CsrStore.isHpmHalf : CsrStore → Bool
  | .hpmLow _ => true
  | .hpmHigh _ => true
  | _ => false

/-- `HpmHalf(a)` (R140). -/
def CsrHome.isHpmHalf : CsrHome → Bool
  | .constant _ => false
  | .storage r => r.isHpmHalf

/-- One row of the source's CSR table. -/
structure CsrRow where
  addr : CsrAddr
  name : String
  home : CsrHome
  deriving DecidableEq, Repr

/-- Rows `0x003` to `0x324` (R22). -/
def csrRowsStandard : List CsrRow :=
  [ ⟨0x003#12, "fcsr", .storage .fcsr⟩,
    ⟨0x008#12, "vstart", .constant 0x00000000#32⟩,
    ⟨0x009#12, "vxsat", .storage .vxsat⟩,
    ⟨0x00a#12, "vxrm", .storage .vxrm⟩,
    ⟨0x300#12, "mstatus", .constant 0x80006600#32⟩,
    ⟨0x301#12, "misa", .constant 0x40201123#32⟩,
    ⟨0x320#12, "mcountinhibit", .storage .mcountinhibit⟩,
    ⟨0x323#12, "mhpmevent3", .storage (.mhpmevent .three)⟩,
    ⟨0x324#12, "mhpmevent4", .storage (.mhpmevent .four)⟩ ]

/-- Rows `0x7c0` to `0x7c6` (R22). -/
def csrRowsConfig : List CsrRow :=
  [ ⟨0x7c0#12, "cfg0", .storage .cfg0⟩,
    ⟨0x7c1#12, "pmacfg0", .storage .pmacfg0⟩,
    ⟨0x7c2#12, "pmacfg1", .storage .pmacfg1⟩,
    ⟨0x7c3#12, "cfg1", .storage .cfg1⟩,
    ⟨0x7c4#12, "hwa_mask", .storage .hwaMask⟩,
    ⟨0x7c5#12, "hwa_cfg", .storage .hwaCfg⟩,
    ⟨0x7c6#12, "vgsrc", .storage .vgsrc⟩ ]

/-- Rows `0xb00` to `0xb84` (R22). -/
def csrRowsCounters : List CsrRow :=
  [ ⟨0xb00#12, "mcycle", .storage .cycLow⟩,
    ⟨0xb02#12, "minstret", .storage .iretLow⟩,
    ⟨0xb03#12, "mhpmcounter3", .storage (.hpmLow .three)⟩,
    ⟨0xb04#12, "mhpmcounter4", .storage (.hpmLow .four)⟩,
    ⟨0xb80#12, "mcycleh", .storage .cycHigh⟩,
    ⟨0xb82#12, "minstreth", .storage .iretHigh⟩,
    ⟨0xb83#12, "mhpmcounter3h", .storage (.hpmHigh .three)⟩,
    ⟨0xb84#12, "mhpmcounter4h", .storage (.hpmHigh .four)⟩ ]

/-- Rows `0xbc0` to `0xbca` (R22). -/
def csrRowsStatus : List CsrRow :=
  [ ⟨0xbc0#12, "tt_cfg_qstatus", .storage .ttCfgQstatus⟩,
    ⟨0xbc1#12, "tt_cfg_bstatus", .storage .ttCfgBstatus⟩,
    ⟨0xbc2#12, "tt_cfg_sstatus0", .storage (.ttCfgSstatus 0)⟩,
    ⟨0xbc3#12, "tt_cfg_sstatus1", .storage (.ttCfgSstatus 1)⟩,
    ⟨0xbc4#12, "tt_cfg_sstatus2", .storage (.ttCfgSstatus 2)⟩,
    ⟨0xbc5#12, "tt_cfg_sstatus3", .storage (.ttCfgSstatus 3)⟩,
    ⟨0xbc6#12, "tt_cfg_sstatus4", .storage (.ttCfgSstatus 4)⟩,
    ⟨0xbc7#12, "tt_cfg_sstatus5", .storage (.ttCfgSstatus 5)⟩,
    ⟨0xbc8#12, "tt_cfg_sstatus6", .storage (.ttCfgSstatus 6)⟩,
    ⟨0xbc9#12, "tt_cfg_sstatus7", .storage (.ttCfgSstatus 7)⟩,
    ⟨0xbca#12, "intp_restore_pc", .storage .intpRestorePc⟩ ]

/-- Rows `0xc00` to `0xf14` (R22); the four Zicntr names share the counters' storage (R69). -/
def csrRowsUser : List CsrRow :=
  [ ⟨0xc00#12, "cycle", .storage .cycLow⟩,
    ⟨0xc02#12, "instret", .storage .iretLow⟩,
    ⟨0xc20#12, "vl", .storage .vl⟩,
    ⟨0xc21#12, "vtype", .storage .vtype⟩,
    ⟨0xc22#12, "vlenb", .storage .vlenb⟩,
    ⟨0xc80#12, "cycleh", .storage .cycHigh⟩,
    ⟨0xc82#12, "instreth", .storage .iretHigh⟩,
    ⟨0xf14#12, "mhartid", .constant 0x00000000#32⟩ ]

/-- The 43 recognised addresses, in the source's order (R22). -/
def csrTable : List CsrRow :=
  csrRowsStandard ++ csrRowsConfig ++ csrRowsCounters ++ csrRowsStatus ++ csrRowsUser

/-- What an address reaches; `none` for the 4053 addresses that are not recognised (R145). -/
def csrHome (a : CsrAddr) : Option CsrHome := (csrTable.find? (·.addr == a)).map (·.home)

/-- `Recognised(a)` (R22). -/
def recognised (a : CsrAddr) : Bool := (csrHome a).isSome

/-! ## Storage -/

/-- `CSR[a]` for the address's storage (R140). -/
def readStore (r : CsrStore) (s : State) : Word :=
  match r with
  | .fcsr => s.csr.fcsr
  | .vxsat => s.csr.vxsat
  | .vxrm => s.csr.vxrm
  | .mcountinhibit => s.csr.mcountinhibit
  | .mhpmevent .three => s.csr.mhpmevent3
  | .mhpmevent .four => s.csr.mhpmevent4
  | .cfg0 => s.csr.cfg0
  | .pmacfg0 => s.csr.pmacfg0
  | .pmacfg1 => s.csr.pmacfg1
  | .cfg1 => s.csr.cfg1
  | .hwaMask => s.csr.hwaMask
  | .hwaCfg => s.csr.hwaCfg
  | .vgsrc => s.csr.vgsrc
  | .cycLow => lowHalf s.cyc
  | .cycHigh => highHalf s.cyc
  | .iretLow => lowHalf s.iret
  | .iretHigh => highHalf s.iret
  | .hpmLow n => lowHalf (hpm n s).low
  | .hpmHigh n => highHalf (hpm n s).low
  | .ttCfgQstatus => s.csr.ttCfgQstatus
  | .ttCfgBstatus => s.csr.ttCfgBstatus
  | .ttCfgSstatus i => s.csr.ttCfgSstatus[i]
  | .intpRestorePc => s.csr.intpRestorePc
  | .vl => s.csr.vl
  | .vtype => s.csr.vtype
  | .vlenb => s.csr.vlenb

/-- `CSR[a] <- v`, all 32 bits. A half of an HPM counter leaves bit 64 as it was (R68, R143). -/
def writeStore (r : CsrStore) (v : Word) (s : State) : State :=
  match r with
  | .fcsr => { s with csr := { s.csr with fcsr := v } }
  | .vxsat => { s with csr := { s.csr with vxsat := v } }
  | .vxrm => { s with csr := { s.csr with vxrm := v } }
  | .mcountinhibit => { s with csr := { s.csr with mcountinhibit := v } }
  | .mhpmevent .three => { s with csr := { s.csr with mhpmevent3 := v } }
  | .mhpmevent .four => { s with csr := { s.csr with mhpmevent4 := v } }
  | .cfg0 => { s with csr := { s.csr with cfg0 := v } }
  | .pmacfg0 => { s with csr := { s.csr with pmacfg0 := v } }
  | .pmacfg1 => { s with csr := { s.csr with pmacfg1 := v } }
  | .cfg1 => { s with csr := { s.csr with cfg1 := v } }
  | .hwaMask => { s with csr := { s.csr with hwaMask := v } }
  | .hwaCfg => { s with csr := { s.csr with hwaCfg := v } }
  | .vgsrc => { s with csr := { s.csr with vgsrc := v } }
  | .cycLow => { s with cyc := setLowHalf s.cyc v }
  | .cycHigh => { s with cyc := setHighHalf s.cyc v }
  | .iretLow => { s with iret := setLowHalf s.iret v }
  | .iretHigh => { s with iret := setHighHalf s.iret v }
  | .hpmLow n => setHpm n { hpm n s with low := setLowHalf (hpm n s).low v } s
  | .hpmHigh n => setHpm n { hpm n s with low := setHighHalf (hpm n s).low v } s
  | .ttCfgQstatus => { s with csr := { s.csr with ttCfgQstatus := v } }
  | .ttCfgBstatus => { s with csr := { s.csr with ttCfgBstatus := v } }
  | .ttCfgSstatus i => { s with csr := { s.csr with ttCfgSstatus := s.csr.ttCfgSstatus.set i v } }
  | .intpRestorePc => { s with csr := { s.csr with intpRestorePc := v } }
  | .vl => { s with csr := { s.csr with vl := v } }
  | .vtype => { s with csr := { s.csr with vtype := v } }
  | .vlenb => { s with csr := { s.csr with vlenb := v } }

/-- Every bit is writable. -/
def allBits : Word := 0xffffffff#32

/-- `WMASK[a]` (R26): all ones where the source fixes it, the core's parameter elsewhere. The eight
`tt_cfg_sstatus` are scratch on RISCV B and NC (R73). -/
def wmask (p : Params) (r : CsrStore) : Word :=
  match r with
  | .fcsr => p.masks.fcsr
  | .vxsat => p.masks.vxsat
  | .vxrm => p.masks.vxrm
  | .mcountinhibit => p.masks.mcountinhibit
  | .mhpmevent .three => p.masks.mhpmevent3
  | .mhpmevent .four => p.masks.mhpmevent4
  | .cfg0 => allBits
  | .pmacfg0 => allBits
  | .pmacfg1 => allBits
  | .cfg1 => allBits
  | .hwaMask => allBits
  | .hwaCfg => allBits
  | .vgsrc => allBits
  | .cycLow => allBits
  | .cycHigh => allBits
  | .iretLow => allBits
  | .iretHigh => allBits
  | .hpmLow _ => allBits
  | .hpmHigh _ => allBits
  | .ttCfgQstatus => p.masks.ttCfgQstatus
  | .ttCfgBstatus => p.masks.ttCfgBstatus
  | .ttCfgSstatus i =>
    match p.coreKind with
    | .b => allBits
    | .nc => allBits
    | .t _ => p.masks.ttCfgSstatus[i]
  | .intpRestorePc => p.masks.intpRestorePc
  | .vl => p.masks.vl
  | .vtype => p.masks.vtype
  | .vlenb => p.masks.vlenb

/-! ## The primitives (R141 to R143) -/

/-- Write zero to bit 64 of the counter that contains the half; the other stores have no such bit. -/
def clearBit64 (r : CsrStore) (s : State) : State :=
  match r with
  | .hpmLow n => setHpm n { hpm n s with bit64 := false } s
  | .hpmHigh n => setHpm n { hpm n s with bit64 := false } s
  | _ => s

/-- The read side effect (R142): under `PmcClrOnRd` a read of an HPM half writes zero to that half and
to bit 64 of its counter. No other read has one. -/
def readEffect (home : CsrHome) (s : State) : State :=
  match home with
  | .constant _ => s
  | .storage r =>
    if r.isHpmHalf && Cfg0.pmcClrOnRd s.csr.cfg0 then clearBit64 r (writeStore r 0#32 s) else s

/-- The value `CsrRead(a)` returns: the value held before the clear (R141, R142). -/
def readValue (home : CsrHome) (s : State) : Word :=
  match home with
  | .constant v => v
  | .storage r => readStore r s

/-- `CsrWrite(a, v)` (R143): the bits of `WMASK` take the new value. A write to a constant CSR is
dropped, as `RO_WRITE = ignore` says (R144). -/
def csrWrite (home : CsrHome) (v : Word) (s : State) : State :=
  match home with
  | .constant _ => s
  | .storage r =>
    writeStore r ((readStore r s &&& ~~~(wmask s.params r)) ||| (v &&& wmask s.params r)) s

/-! ## The common rule (R152) -/

/-- Steps 5 to 9 of R152, for an access that no check stops. The operand `src` was read before. -/
def csrEffect (kind : CsrKind) (rd : Reg) (home : CsrHome) (src : Word) (reads writes : Bool) (s : State) :
    State :=
  let t := if reads then readValue home s else 0#32
  let s₁ := if reads then readEffect home s else s
  let s₂ := if writes then csrWrite home (kind.combine t src) s₁ else s₁
  let s₃ := if reads then writeReg rd t s₂ else s₂
  advancePc s₃

/-- Steps 1 to 4 of R152 and then its effect: the checks come first, in the spec's order, and an
instruction that faults changes no state. -/
def csrOp (kind : CsrKind) (rd : Reg) (a : CsrAddr) (src : CsrSource) (s : State) : Result :=
  let reads := doRead kind rd
  let writes := doWrite kind src
  match csrHome a with
  | none => .fault (.unrecognisedCsr a)
  | some home =>
    if writes && s.inHandler then .fault (.csrWriteInHandler a)
    else if writes && home.isConstant && s.params.roWrite == .fault then .fault (.readOnlyCsrWrite a)
    else if reads && writes && home.isHpmHalf && Cfg0.pmcClrOnRd s.csr.cfg0 then
      .fault (.clearOnReadWithWrite a)
    else .next (csrEffect kind rd home (src.value s) reads writes s)

end Sys2Proof.Machine
end

