-- ==== Sys2Proof/Machine/CsrAccess.lean ====
section
/-! DEFINITION. The six CSR access instructions (40_csr_instructions.md R146 to R151). -/

namespace Sys2Proof.Machine

/-- `csrrw rd, csr, rs1` (R146). -/
def execCsrrw (rd : Reg) (csr : CsrAddr) (rs1 : Reg) (s : State) : Result :=
  csrOp .write rd csr (.reg rs1) s

/-- `csrrs rd, csr, rs1` (R147). -/
def execCsrrs (rd : Reg) (csr : CsrAddr) (rs1 : Reg) (s : State) : Result :=
  csrOp .set rd csr (.reg rs1) s

/-- `csrrc rd, csr, rs1` (R148). -/
def execCsrrc (rd : Reg) (csr : CsrAddr) (rs1 : Reg) (s : State) : Result :=
  csrOp .clear rd csr (.reg rs1) s

/-- `csrrwi rd, csr, uimm` (R149). -/
def execCsrrwi (rd : Reg) (csr : CsrAddr) (uimm : BitVec 5) (s : State) : Result :=
  csrOp .write rd csr (.imm uimm) s

/-- `csrrsi rd, csr, uimm` (R150). -/
def execCsrrsi (rd : Reg) (csr : CsrAddr) (uimm : BitVec 5) (s : State) : Result :=
  csrOp .set rd csr (.imm uimm) s

/-- `csrrci rd, csr, uimm` (R151). -/
def execCsrrci (rd : Reg) (csr : CsrAddr) (uimm : BitVec 5) (s : State) : Result :=
  csrOp .clear rd csr (.imm uimm) s

end Sys2Proof.Machine
end

