-- ==== Sys2Proof/Machine/System.lean ====
section
/-! DEFINITION. `fence`, `ecall`, `ebreak` and `mret` (41_named_instructions.md R175 to R178). -/

namespace Sys2Proof.Machine

/-- `fence` (R175): "in a model with no loads or stores: `pc <- pc + 4` and nothing else", whatever
`fm`, `pred` and `succ` hold (D23). A state with a `cfg0` field of unknown purpose set is outside the
spec (R46). -/
def execFence (_fm : BitVec 4) (_pred _succ : FenceSet) (s : State) : Result :=
  if Cfg0.unknownSetting s.csr.cfg0 then .refused .unknownCfg0Setting else .next (advancePc s)

/-- `ecall` (R176): "Pseudocode: `raise Unmodelled(ecall)`. The model gives it no meaning". -/
def execEcall (_s : State) : Result :=
  .fault (.unmodelled .ecall)

/-- `ebreak` (R177): "Pseudocode: `raise Unmodelled(ebreak)`". -/
def execEbreak (_s : State) : Result :=
  .fault (.unmodelled .ebreak)

/-- `mret` (R178): the return of R199, outside a handler `MretOutsideHandler`. A state with a `cfg0`
field of unknown purpose set is outside the spec (R46). -/
def execMret (s : State) : Result :=
  if Cfg0.unknownSetting s.csr.cfg0 then .refused .unknownCfg0Setting
  else if s.inHandler then .next (intReturn s)
  else .fault .mretOutsideHandler

end Sys2Proof.Machine
end

