-- ==== Sys2Proof/Machine/Vset.lean ====
section
/-! DEFINITION. The three `vset` instructions (41_named_instructions.md R170 to R174). -/

namespace Sys2Proof.Machine

/-- The address in the fault of a `vset` instruction inside a handler: `vl` (R171, step 1). -/
def vsetFaultAddr : CsrAddr := 0xc20#12

/-- Steps 2 to 5 of R171. The pair `VSET` answers is free (log entry 4); it is stored whole, whatever
`WMASK` holds. -/
def vsetEffect (form : VsetForm) (rd : Reg) (avl : Avl) (req : Word) (s : State) : State :=
  let answer := Config.vset form avl req s.csr.vl s.csr.vtype
  advancePc (writeReg rd answer.1 { s with csr := { s.csr with vl := answer.1, vtype := answer.2 } })

/-- `VsetOp` (R171). A state with a `cfg0` field of unknown purpose set is outside the spec (R46). -/
def vsetOp (form : VsetForm) (rd : Reg) (avl : Avl) (req : Word) (s : State) : Result :=
  if Cfg0.unknownSetting s.csr.cfg0 then .refused .unknownCfg0Setting
  else if s.inHandler then .fault (.csrWriteInHandler vsetFaultAddr)
  else .next (vsetEffect form rd avl req s)

/-- `vsetvli rd, rs1, vtypei` (R172). -/
def execVsetvli (rd rs1 : Reg) (zimm : BitVec 11) (s : State) : Result :=
  vsetOp .vli rd (avlOfReg rd rs1 s) (reqOfImm zimm) s

/-- `vsetivli rd, uimm, vtypei` (R173). -/
def execVsetivli (rd : Reg) (uimm : BitVec 5) (zimm : BitVec 11) (s : State) : Result :=
  vsetOp .ivli rd (avlOfImm uimm) (reqOfImm zimm) s

/-- `vsetvl rd, rs1, rs2` (R174). -/
def execVsetvl (rd rs1 rs2 : Reg) (s : State) : Result :=
  vsetOp .vl rd (avlOfReg rd rs1 s) (readReg s rs2) s

end Sys2Proof.Machine
end

