-- ==== Sys2Proof/Machine/Environment.lean ====
section
/-! DEFINITION. The agents outside the core (00_scope.md R16, agents 2 to 5) at one boundary between two
instructions: `Tick`, the retirement count, `HpmEventStep`, `StatusFeed` and the interrupt source
(60_exceptions.md R194 to R216). The first four write disjoint state and none reads what another writes, so their order within a boundary
does not matter. -/

namespace Sys2Proof.Machine

/-- `c <- c + k` modulo 2^64 (R207, R208, R209). -/
def countUp (c : BitVec 64) (k : Nat) : BitVec 64 := c + BitVec.ofNat 64 k

/-- `HpmEventStep(N)` (R212): one event. `draw` is bit 64 after a carry out of 65 bits. -/
def hpmEventStep (csr : CsrFile) (n : HpmId) (draw : Bool) (h : HpmCounter) : HpmCounter :=
  if hpmInhibited csr.mcountinhibit n then h
  else if Cfg0.disPmcWrapArnd csr.cfg0 && h.bit64 then h
  else if h.low ≠ 0xffffffffffffffff#64 then { h with low := h.low + 1#64 }
  else { low := 0#64, bit64 := if h.bit64 then draw else true }

/-- `k` events in a row, each with its draw. -/
def hpmEvents (csr : CsrFile) (n : HpmId) (draw : Nat → Bool) : Nat → HpmCounter → HpmCounter
  | 0, h => h
  | k + 1, h => hpmEvents csr n draw k (hpmEventStep csr n (draw k) h)

/-- The event selector of a counter (R41, R42). -/
def hpmSelector (csr : CsrFile) (n : HpmId) : Word :=
  match n with
  | .three => csr.mhpmevent3
  | .four => csr.mhpmevent4

/-- How many events of the selected kind a list of events reports: `HpmEvent(N, sel, env)` (R211). -/
def eventCount (events : List (Word × Nat)) (sel : Word) : Nat :=
  match events with
  | [] => 0
  | (w, k) :: rest => if w = sel then k else eventCount rest sel

/-- The events of a counter at a boundary. -/
def boundaryEvents (b : Boundary) (n : HpmId) : List (Word × Nat) :=
  match n with
  | .three => b.hpm3Events
  | .four => b.hpm4Events

/-- An HPM counter after the events of a boundary (R211, R212). -/
def hpmAfter (b : Boundary) (number : Nat) (csr : CsrFile) (n : HpmId) (h : HpmCounter) : HpmCounter :=
  hpmEvents csr n (Config.hpmCarry n.number number) (eventCount (boundaryEvents b n) (hpmSelector csr n)) h

/-! ## The status feed (R215, R216) -/

/-- A hardware-written `tt_cfg_qstatus`: bit 24 is a copy of bit 11, and outside RISCV T<sub>i</sub> bits
10:0 are a copy of bits 23:13 (R70, R216). -/
def qstatusWord (k : CoreKind) (f : QstatusFeed) : Word :=
  let low := match k with
    | .b => f.orMask
    | .nc => f.orMask
    | .t _ => f.threadMask
  f.reservedHigh ++ BitVec.ofBool f.sfpuCc ++ f.orMask ++ BitVec.ofBool f.reserved12 ++
    BitVec.ofBool f.sfpuCc ++ low

/-- A hardware-written `tt_cfg_bstatus`: outside RISCV T<sub>i</sub> bits 10:0 are a copy of bits 21:11
(R72, R216). -/
def bstatusWord (k : CoreKind) (f : BstatusFeed) : Word :=
  let low := match k with
    | .b => f.orMask
    | .nc => f.orMask
    | .t _ => f.threadMask
  f.reservedHigh ++ f.orMask ++ low

/-- The `tt_cfg_sstatus` CSRs after a feed: on RISCV B and NC "the feed never touches them" (R215). -/
def sstatusAfter (k : CoreKind) (feed : Vector (Option Word) 8) (old : Vector Word 8) : Vector Word 8 :=
  match k with
  | .b => old
  | .nc => old
  | .t _ => Vector.zipWith (fun f o => f.getD o) feed old

/-- `StatusFeed` (R215): disabled while `cfg0.DisTTStatusReg` is set (R59). -/
def statusFeed (k : CoreKind) (b : Boundary) (csr : CsrFile) : CsrFile :=
  if Cfg0.disTTStatusReg csr.cfg0 then csr
  else { csr with
    ttCfgQstatus := (b.qstatus.map (qstatusWord k)).getD csr.ttCfgQstatus
    ttCfgBstatus := (b.bstatus.map (bstatusWord k)).getD csr.ttCfgBstatus
    ttCfgSstatus := sstatusAfter k b.sstatus csr.ttCfgSstatus }

/-! ## One boundary -/

/-- What the environment does at the coming boundary: the input State lists, or, past the end of the
list, a draw with no interrupt request (log entry 2). -/
def currentBoundary (s : State) : Boundary :=
  match s.inputs with
  | b :: _ => b
  | [] => { Config.boundary s.boundary with intPending := false }

/-- The counters and the status CSRs after a boundary. `mcountinhibit` has no part in `cyc` and `iret`
(R206). -/
def applyBoundary (b : Boundary) (s : State) : State :=
  { s with
    cyc := countUp s.cyc b.cycTicks
    iret := countUp s.iret b.iretTicks
    hpm3 := hpmAfter b s.boundary s.csr .three s.hpm3
    hpm4 := hpmAfter b s.boundary s.csr .four s.hpm4
    csr := statusFeed s.params.coreKind b s.csr }

/-- Move on to the next boundary, once the instruction after this one is done. -/
def passBoundary (s : State) : State :=
  { s with inputs := s.inputs.tail, boundary := s.boundary + 1 }

/-- Answer the interrupt request of the coming boundary: "taking the entry answers the request that made
it hold" (R197). -/
def answerInterrupt (s : State) : State :=
  match s.inputs with
  | b :: rest => { s with inputs := { b with intPending := false } :: rest }
  | [] => s

/-- The interrupt source (agent 5 of R16; R194, R197, R200), where a request is pending: an entry when no
handler runs, `NestedInterrupt` when one does. A state with a `cfg0` field of unknown purpose set is
outside the spec (R46). -/
def interruptStep (s : State) : Result :=
  if Cfg0.unknownSetting s.csr.cfg0 then .refused .unknownCfg0Setting
  else if s.inHandler then .fault .nestedInterrupt
  else .next (answerInterrupt (intEntry s))

end Sys2Proof.Machine
end

