-- ==== Sys2Proof/Machine/Fetch.lean ====
section
/-! DEFINITION. Fetching and decoding the instruction at `pc` (10_state.md R23; 30_encoding.md R121,
R132), and loading one there. -/

namespace Sys2Proof.Machine

/-- The four bytes of the instruction word at `pc` (R121). -/
def fetchBytes (s : State) : Option (List Byte) := memRead s.mem s.pc 4

/-- The instruction at `pc`, or the fault that stops the machine: `IllegalEncoding` for a word that
matches no row (R132), the faults of log entries 6 and 7 where there is no word. -/
def fetchInstr (s : State) : Except Fault Instr :=
  if aligned4 s.pc then
    match fetchBytes s with
    | none => .error (.unwrittenFetch s.pc)
    | some bytes =>
      match decode bytes with
      | .ok (i, _) => .ok i
      | .error (.unmodelled w) => .error (.illegalEncoding w)
      | .error .truncated => .error (.unwrittenFetch s.pc)
  else .error (.misalignedFetch s.pc)

/-- The state with a word in memory at `pc`. -/
def storeFetchWord (word : Word) (s : State) : State :=
  { s with mem := memWrite s.mem s.pc (bytesOfWord word) }

end Sys2Proof.Machine
end

