-- ==== Sys2Proof/Machine/Run.lean ====
section
/-! DEFINITION. What one step does (00_scope.md R16): an interrupt entry, or what the other agents do at the
boundary followed by one instruction; and loading the word the next step runs. -/

namespace Sys2Proof.Machine

/-- Fetch, decode and execute the instruction at `pc` (R23). -/
def instructionStep (s : State) : Result :=
  match fetchInstr s with
  | .ok i => exec i s
  | .error f => .fault f

/-- One step. It refuses in a state whose pipeline is not serialised (R240; D28). -/
def runStep (s : State) : Result :=
  if Cfg0.unsynchronised s.csr.cfg0 then .refused .csrSyncDisabled
  else if (currentBoundary s).intPending then interruptStep s
  else mapNext passBoundary (instructionStep (applyBoundary (currentBoundary s) s))

/-- The state with an instruction word stored at `pc`, where the next step fetches. An interrupt request
of the coming boundary counts as answered, so that the very next step runs the instruction (log
entry 9). -/
def loadWord (word : Word) (s : State) : State := answerInterrupt (storeFetchWord word s)

end Sys2Proof.Machine
end

