-- ==== Sys2Proof/Machine/Step.lean ====
section
/-! DEFINITION. The step and the load, under the names the host calls. -/

namespace Sys2Proof.Machine

/-- One step of the machine. -/
def step (s : State) : Host.Outcome State Fault Refusal := runStep s

/-- The state whose next step runs the word `w` of `nbits` bits. -/
def State.withFetchWord (s : State) (nbits w : Nat) : State := loadWord (BitVec.ofNat 32 (w % 2 ^ nbits)) s

end Sys2Proof.Machine
end

