-- ==== Sys2Proof/Safety.lean ====
section
/-! DEFINITION. The words the claims use: what a step leaves unchanged, which instructions reach which
state, the invariant every step keeps, and what counts as a safe run. -/

namespace Sys2Proof.Safety

open Sys2Proof.Machine

/-! ## Frames -/

/-- Every general register but those listed reads as before. -/
def sameRegsBut (rds : List Reg) (s t : State) : Prop := ∀ r, r ∉ rds → readReg t r = readReg s r

/-- Every stored CSR and counter half but those listed reads as before. -/
def sameCsrsBut (rs : List CsrStore) (s t : State) : Prop := ∀ r, r ∉ rs → readStore r t = readStore r s

/-- Bit 64 of each HPM counter is as before. -/
def sameBit64 (s t : State) : Prop := ∀ n, (hpm n t).bit64 = (hpm n s).bit64

/-- Every byte of memory reads as before. -/
def sameMemory (s t : State) : Prop := ∀ a, t.mem.read a = s.mem.read a

/-- `ret_pc` and `in_handler` are as before. -/
def sameTrapState (s t : State) : Prop := t.retPc = s.retPc ∧ t.inHandler = s.inHandler

/-- The core's parameters and the environment's inputs are as before. -/
def sameOutside (s t : State) : Prop :=
  t.params = s.params ∧ t.inputs = s.inputs ∧ t.boundary = s.boundary

/-- The whole frame of an instruction that may change the listed registers and CSRs and `pc`. -/
def sameBut (rds : List Reg) (rs : List CsrStore) (s t : State) : Prop :=
  sameRegsBut rds s t ∧ sameCsrsBut rs s t ∧ sameBit64 s t ∧ sameMemory s t ∧ sameTrapState s t ∧
    sameOutside s t

/-! ## Instructions by what they reach -/

/-- The six CSR instructions, by their kind and source (R146 to R151). -/
def csrInstr (k : CsrKind) (rd : Reg) (a : CsrAddr) (src : CsrSource) : Instr :=
  match k, src with
  | .write, .reg r => .csrrw rd a r
  | .set, .reg r => .csrrs rd a r
  | .clear, .reg r => .csrrc rd a r
  | .write, .imm u => .csrrwi rd a u
  | .set, .imm u => .csrrsi rd a u
  | .clear, .imm u => .csrrci rd a u

/-- The pure reads: the set and clear forms whose source field is 0 (R147, R148, R150, R151). -/
def pureReads (rd : Reg) (a : CsrAddr) : List Instr :=
  [.csrrs rd a 0, .csrrc rd a 0, .csrrsi rd a 0#5, .csrrci rd a 0#5]

/-- The CSR address in a CSR instruction. -/
def csrAddrOf : Instr → Option CsrAddr
  | .csrrw _ a _ => some a
  | .csrrs _ a _ => some a
  | .csrrc _ a _ => some a
  | .csrrwi _ a _ => some a
  | .csrrsi _ a _ => some a
  | .csrrci _ a _ => some a
  | .vsetvli _ _ _ => none
  | .vsetivli _ _ _ => none
  | .vsetvl _ _ _ => none
  | .fence _ _ _ => none
  | .ecall => none
  | .ebreak => none
  | .mret => none

/-- A CSR instruction whose address reaches the store. -/
def addressesStore (i : Instr) (r : CsrStore) : Prop :=
  ∃ a, csrAddrOf i = some a ∧ csrHome a = some (.storage r)

/-- One of the three `vset` instructions. -/
def isVset : Instr → Bool
  | .vsetvli _ _ _ => true
  | .vsetivli _ _ _ => true
  | .vsetvl _ _ _ => true
  | .csrrw _ _ _ => false
  | .csrrs _ _ _ => false
  | .csrrc _ _ _ => false
  | .csrrwi _ _ _ => false
  | .csrrsi _ _ _ => false
  | .csrrci _ _ _ => false
  | .fence _ _ _ => false
  | .ecall => false
  | .ebreak => false
  | .mret => false

/-- The destination register an instruction names. -/
def destination : Instr → Option Reg
  | .csrrw rd _ _ => some rd
  | .csrrs rd _ _ => some rd
  | .csrrc rd _ _ => some rd
  | .csrrwi rd _ _ => some rd
  | .csrrsi rd _ _ => some rd
  | .csrrci rd _ _ => some rd
  | .vsetvli rd _ _ => some rd
  | .vsetivli rd _ _ => some rd
  | .vsetvl rd _ _ => some rd
  | .fence _ _ _ => none
  | .ecall => none
  | .ebreak => none
  | .mret => none

/-! ## The invariant -/

/-- What every step keeps: memory stays in its canonical form; `pc` and, in a handler, `ret_pc` are
multiples of 4 (R121; D7); in a handler `intp_restore_pc` reads the `pc` to which `mret` will
return (R74, R198). -/
def Inv (s : State) : Prop :=
  s.mem.wf ∧ aligned4 s.pc = true ∧
    (s.inHandler = true → aligned4 s.retPc = true ∧ s.csr.intpRestorePc = s.retPc)

/-! ## The words of the claims about CSRs and counters -/

/-- The 43 addresses of the source's table (R22). -/
def sourceCsrAddrs : List CsrAddr :=
  [0x003#12, 0x008#12, 0x009#12, 0x00a#12, 0x300#12, 0x301#12, 0x320#12, 0x323#12, 0x324#12] ++
    [0x7c0#12, 0x7c1#12, 0x7c2#12, 0x7c3#12, 0x7c4#12, 0x7c5#12, 0x7c6#12] ++
    [0xb00#12, 0xb02#12, 0xb03#12, 0xb04#12, 0xb80#12, 0xb82#12, 0xb83#12, 0xb84#12] ++
    [0xbc0#12, 0xbc1#12, 0xbc2#12, 0xbc3#12, 0xbc4#12, 0xbc5#12, 0xbc6#12, 0xbc7#12, 0xbc8#12, 0xbc9#12,
      0xbca#12] ++
    [0xc00#12, 0xc02#12, 0xc20#12, 0xc21#12, 0xc22#12, 0xc80#12, 0xc82#12, 0xf14#12]

/-- The value of a 65-bit counter as a number (R68). -/
def hpmValue (h : HpmCounter) : Nat := h.bit64.toNat * 2 ^ 64 + h.low.toNat

/-- The core is RISCV B or RISCV NC (R9). -/
abbrev isBOrNc (k : CoreKind) : Prop := k = .b ∨ k = .nc

/-- The stores the status feed may overwrite (R59, R215). -/
def statusStores : List CsrStore :=
  [.ttCfgQstatus, .ttCfgBstatus, .ttCfgSstatus 0, .ttCfgSstatus 1, .ttCfgSstatus 2, .ttCfgSstatus 3,
    .ttCfgSstatus 4, .ttCfgSstatus 5, .ttCfgSstatus 6, .ttCfgSstatus 7]

/-- The stores of the four counters (R205). -/
def counterStores : List CsrStore :=
  [.cycLow, .cycHigh, .iretLow, .iretHigh, .hpmLow .three, .hpmHigh .three, .hpmLow .four, .hpmHigh .four]

/-! ## Safe runs -/

/-- The state's configuration is one the spec describes for every instruction (R46, R240). -/
abbrev described (s : State) : Prop :=
  Cfg0.unknownSetting s.csr.cfg0 = false ∧ Cfg0.unsynchronised s.csr.cfg0 = false

/-- No interrupt is requested at the coming boundary (R194). -/
abbrev quiet (s : State) : Prop := (currentBoundary s).intPending = false

/-- The instruction writes a half of `iret`. -/
def writesIret (i : Instr) : Prop :=
  ∃ k rd a src, i = csrInstr k rd a src ∧ doWrite k src = true ∧
    (csrHome a = some (.storage .iretLow) ∨ csrHome a = some (.storage .iretHigh))

/-- `IRET_LAW` (R208) at the boundary after an instruction, a premise a claim may name and the model does not
take: the instruction counts one, and nothing on top of a value it wrote (log entry 22). -/
def iretLaw (last : Instr) (s : State) : Prop :=
  (writesIret last → (currentBoundary s).iretTicks = 0) ∧
    (¬ writesIret last → (currentBoundary s).iretTicks = 1)

/-- `n` steps from `s` meet no fault and no refusal. -/
def safeFor (n : Nat) (s : State) : Prop := ∃ t, Sys2Proof.core.run n s = .next t

end Sys2Proof.Safety
end

