-- ==== Sys2Proof/Certificates/Slice0/Obligations.lean ====
section
/-! DEFINITION. The statements for the provers, in the order of OBLIGATIONS.json. -/

open Sys2Proof Sys2Proof.Machine Sys2Proof.Safety

/-! ## Encoding (30_encoding.md) -/

/-- Decoding an encoded well-formed instruction gives it back, with the bytes after it (R122 to R127). -/
def Obligations.DecodeInvertsEncode : Prop :=
  ∀ (i : Instr) (rest : List Byte), i.wellFormed = true → decode (encode i ++ rest) = .ok (i, rest)

/-- Words of the spec's vectors V1, V16, V110 to V115 and V118 decode to what the spec says they are. -/
def Obligations.SpecWordsDecode : Prop :=
  decodeWord 0x7c329373#32 = .ok (.csrrw 6 0x7c3#12 5) ∧
  decodeWord 0x7c32f2f3#32 = .ok (.csrrci 5 0x7c3#12 5#5) ∧
  decodeWord 0x0d0372d7#32 = .ok (.vsetvli 5 6 0x0d0#11) ∧
  decodeWord 0xcd0272d7#32 = .ok (.vsetivli 5 4#5 0x0d0#11) ∧
  decodeWord 0x807372d7#32 = .ok (.vsetvl 5 6 7) ∧
  decodeWord 0x8330000f#32 =
    .ok (.fence 0b1000#4 ⟨false, false, true, true⟩ ⟨false, false, true, true⟩) ∧
  decodeWord 0x30200073#32 = .ok .mret

/-- A word is an instruction of a row exactly when the row's mask and match say so: the thirteen rows of
R128, written out. -/
def Obligations.RowDecidesInstruction : Prop :=
  ∀ row ∈ ([ ⟨.csrrw, 0x0000707f#32, 0x00001073#32⟩, ⟨.csrrs, 0x0000707f#32, 0x00002073#32⟩,
      ⟨.csrrc, 0x0000707f#32, 0x00003073#32⟩, ⟨.csrrwi, 0x0000707f#32, 0x00005073#32⟩,
      ⟨.csrrsi, 0x0000707f#32, 0x00006073#32⟩, ⟨.csrrci, 0x0000707f#32, 0x00007073#32⟩,
      ⟨.vsetvli, 0x8000707f#32, 0x00007057#32⟩, ⟨.vsetivli, 0xc000707f#32, 0xc0007057#32⟩,
      ⟨.vsetvl, 0xfe00707f#32, 0x80007057#32⟩, ⟨.fence, 0x0000707f#32, 0x0000000f#32⟩,
      ⟨.ecall, 0xffffffff#32, 0x00000073#32⟩, ⟨.ebreak, 0xffffffff#32, 0x00100073#32⟩,
      ⟨.mret, 0xffffffff#32, 0x30200073#32⟩ ] : List OpcodeRow),
    ∀ w : Word, w &&& row.mask = row.pattern ↔ ∃ i, decodeWord w = .ok i ∧ i.mnemonic = row.mnemonic

/-- No two rows match one word, so the rows may be tested in any order; and every word is an instruction
or `Unmodelled`, the latter exactly when no row matches (R129, R132). -/
def Obligations.RowsDoNotOverlap : Prop :=
  (∀ w : Word, ∀ p ∈ opcodeMap, ∀ q ∈ opcodeMap, p.matches w = true → q.matches w = true → p = q) ∧
  (∀ (rows : List OpcodeRow) (w : Word), rows.Perm opcodeMap →
    rows.find? (·.matches w) = opcodeMap.find? (·.matches w)) ∧
  (∀ w : Word, (∃ i, decodeWord w = .ok i) ∨ decodeWord w = .error (.unmodelled w)) ∧
  (∀ w : Word, decodeWord w = .error (.unmodelled w) ↔ ∀ p ∈ opcodeMap, p.matches w = false)

/-- Encoding what a word decodes to gives the word back; of a `fence` word the ignored `rs1` and `rd`
fields come back as zero (R125). -/
def Obligations.EncodeInvertsDecode : Prop :=
  ∀ (w : Word) (i : Instr), decodeWord w = .ok i →
    i.wellFormed = true ∧
    encodeWord i = if i.mnemonic = .fence then w &&& 0xfff0707f#32 else w

/-! ## The six CSR instructions (40_csr_instructions.md)

Each statement below is about storage; constant CSRs, unrecognised addresses, pure reads and the checks
that stop an access have statements of their own. -/

/-- `csrrw` (R146): the CSR takes `x[rs1]` within `WMASK`, `rd` the old value; with `rd = x0` there is no
read and no read side effect. -/
def Obligations.CsrrwExchanges : Prop :=
  ∀ (rd rs1 : Reg) (a : CsrAddr) (r : CsrStore) (s : State),
    csrHome a = some (.storage r) → s.inHandler = false →
    (rd = 0 ∨ r.isHpmHalf = false ∨ Cfg0.pmcClrOnRd s.csr.cfg0 = false) →
    ∃ t, exec (.csrrw rd a rs1) s = .next t ∧
      readStore r t =
        (readStore r s &&& ~~~(wmask s.params r)) ||| (readReg s rs1 &&& wmask s.params r) ∧
      (rd ≠ 0 → readReg t rd = readStore r s) ∧ t.pc = s.pc + 4#32 ∧ sameBut [rd] [r] s t

/-- `csrrs` with `rs1` not `x0` (R147): the bits of `x[rs1]` are set. The test is on the register number:
`x[rs1]` may be 0. -/
def Obligations.CsrrsSetsBits : Prop :=
  ∀ (rd rs1 : Reg) (a : CsrAddr) (r : CsrStore) (s : State),
    csrHome a = some (.storage r) → s.inHandler = false → rs1 ≠ 0 →
    (r.isHpmHalf = false ∨ Cfg0.pmcClrOnRd s.csr.cfg0 = false) →
    ∃ t, exec (.csrrs rd a rs1) s = .next t ∧
      readStore r t = (readStore r s &&& ~~~(wmask s.params r)) |||
        ((readStore r s ||| readReg s rs1) &&& wmask s.params r) ∧
      (rd ≠ 0 → readReg t rd = readStore r s) ∧ t.pc = s.pc + 4#32 ∧ sameBut [rd] [r] s t

/-- `csrrc` with `rs1` not `x0` (R148): the bits of `x[rs1]` are cleared. -/
def Obligations.CsrrcClearsBits : Prop :=
  ∀ (rd rs1 : Reg) (a : CsrAddr) (r : CsrStore) (s : State),
    csrHome a = some (.storage r) → s.inHandler = false → rs1 ≠ 0 →
    (r.isHpmHalf = false ∨ Cfg0.pmcClrOnRd s.csr.cfg0 = false) →
    ∃ t, exec (.csrrc rd a rs1) s = .next t ∧
      readStore r t = (readStore r s &&& ~~~(wmask s.params r)) |||
        ((readStore r s &&& ~~~(readReg s rs1)) &&& wmask s.params r) ∧
      (rd ≠ 0 → readReg t rd = readStore r s) ∧ t.pc = s.pc + 4#32 ∧ sameBut [rd] [r] s t

/-- `csrrwi` (R149): the CSR takes the zero-extended immediate, 0 included. -/
def Obligations.CsrrwiWritesImmediate : Prop :=
  ∀ (rd : Reg) (u : BitVec 5) (a : CsrAddr) (r : CsrStore) (s : State),
    csrHome a = some (.storage r) → s.inHandler = false →
    (rd = 0 ∨ r.isHpmHalf = false ∨ Cfg0.pmcClrOnRd s.csr.cfg0 = false) →
    ∃ t, exec (.csrrwi rd a u) s = .next t ∧
      readStore r t =
        (readStore r s &&& ~~~(wmask s.params r)) ||| (BitVec.ofNat 32 u.toNat &&& wmask s.params r) ∧
      (rd ≠ 0 → readReg t rd = readStore r s) ∧ t.pc = s.pc + 4#32 ∧ sameBut [rd] [r] s t

/-- `csrrsi` with a non-zero immediate (R150): only bits 4:0 can be set this way. -/
def Obligations.CsrrsiSetsLowBits : Prop :=
  ∀ (rd : Reg) (u : BitVec 5) (a : CsrAddr) (r : CsrStore) (s : State),
    csrHome a = some (.storage r) → s.inHandler = false → u ≠ 0#5 →
    (r.isHpmHalf = false ∨ Cfg0.pmcClrOnRd s.csr.cfg0 = false) →
    ∃ t, exec (.csrrsi rd a u) s = .next t ∧
      readStore r t = (readStore r s &&& ~~~(wmask s.params r)) |||
        ((readStore r s ||| BitVec.ofNat 32 u.toNat) &&& wmask s.params r) ∧
      (readStore r t).extractLsb' 5 27 = (readStore r s).extractLsb' 5 27 ∧
      (rd ≠ 0 → readReg t rd = readStore r s) ∧ t.pc = s.pc + 4#32 ∧ sameBut [rd] [r] s t

/-- `csrrci` with a non-zero immediate (R151): bits 31:5 are never cleared. -/
def Obligations.CsrrciClearsLowBits : Prop :=
  ∀ (rd : Reg) (u : BitVec 5) (a : CsrAddr) (r : CsrStore) (s : State),
    csrHome a = some (.storage r) → s.inHandler = false → u ≠ 0#5 →
    (r.isHpmHalf = false ∨ Cfg0.pmcClrOnRd s.csr.cfg0 = false) →
    ∃ t, exec (.csrrci rd a u) s = .next t ∧
      readStore r t = (readStore r s &&& ~~~(wmask s.params r)) |||
        ((readStore r s &&& ~~~(BitVec.ofNat 32 u.toNat)) &&& wmask s.params r) ∧
      (readStore r t).extractLsb' 5 27 = (readStore r s).extractLsb' 5 27 ∧
      (rd ≠ 0 → readReg t rd = readStore r s) ∧ t.pc = s.pc + 4#32 ∧ sameBut [rd] [r] s t

/-- The read side effect (R142), for the four pure-read forms, inside a handler too (R153): under
`PmcClrOnRd` reading a half of an HPM counter returns the value held before, and writes zero to that half
and to bit 64 of its counter; no other pure read changes anything but `rd`. -/
def Obligations.PureReadReturnsAndClears : Prop :=
  (∀ (rd : Reg) (a : CsrAddr) (n : HpmId) (r : CsrStore) (s : State), ∀ i ∈ pureReads rd a,
    csrHome a = some (.storage r) → (r = .hpmLow n ∨ r = .hpmHigh n) → s.csr.cfg0.getLsbD 8 = true →
    ∃ t, exec i s = .next t ∧ (rd ≠ 0 → readReg t rd = readStore r s) ∧ readStore r t = 0#32 ∧
      (hpm n t).bit64 = false ∧ (∀ m, m ≠ n → (hpm m t).bit64 = (hpm m s).bit64) ∧
      t.pc = s.pc + 4#32 ∧ sameRegsBut [rd] s t ∧ sameCsrsBut [r] s t ∧ sameMemory s t ∧
      sameTrapState s t ∧ sameOutside s t) ∧
  (∀ (rd : Reg) (a : CsrAddr) (r : CsrStore) (s : State), ∀ i ∈ pureReads rd a,
    csrHome a = some (.storage r) →
    ((∀ n, r ≠ .hpmLow n ∧ r ≠ .hpmHigh n) ∨ s.csr.cfg0.getLsbD 8 = false) →
    ∃ t, exec i s = .next t ∧ (rd ≠ 0 → readReg t rd = readStore r s) ∧ t.pc = s.pc + 4#32 ∧
      sameBut [rd] [] s t) ∧
  (∀ (rd : Reg) (a : CsrAddr) (v : Word) (s : State), ∀ i ∈ pureReads rd a,
    csrHome a = some (.constant v) →
    ∃ t, exec i s = .next t ∧ (rd ≠ 0 → readReg t rd = v) ∧ t.pc = s.pc + 4#32 ∧ sameBut [rd] [] s t)

/-- The four constant CSRs read as their constants, in every state and inside a handler (R32, R35, R37,
R78). -/
def Obligations.ConstantCsrsReadTheirConstants : Prop :=
  ∀ (rd : Reg) (s : State),
    ∀ p ∈ ([(0x008#12, 0x00000000#32), (0x300#12, 0x80006600#32), (0x301#12, 0x40201123#32),
      (0xf14#12, 0x00000000#32)] : List (CsrAddr × Word)), ∀ i ∈ pureReads rd p.1,
    ∃ t, exec i s = .next t ∧ (rd ≠ 0 → readReg t rd = p.2) ∧ t.pc = s.pc + 4#32 ∧ sameBut [rd] [] s t

/-- A write attempt on a constant CSR (R144): with `RO_WRITE = ignore` the instruction completes and `rd`
still receives the constant, with `fault` it stops. -/
def Obligations.ConstantWriteAttempt : Prop :=
  ∀ (k : CsrKind) (rd : Reg) (src : CsrSource) (s : State),
    ∀ p ∈ ([(0x008#12, 0x00000000#32), (0x300#12, 0x80006600#32), (0x301#12, 0x40201123#32),
      (0xf14#12, 0x00000000#32)] : List (CsrAddr × Word)),
    s.inHandler = false → (k = .write ∨ src.isZeroField = false) →
    (s.params.roWrite = .ignore → ∃ t, exec (csrInstr k rd p.1 src) s = .next t ∧
      (rd ≠ 0 → readReg t rd = p.2) ∧ t.pc = s.pc + 4#32 ∧ sameBut [rd] [] s t) ∧
    (s.params.roWrite = .fault → exec (csrInstr k rd p.1 src) s = .fault (.readOnlyCsrWrite p.1))

/-- The recognised addresses are exactly the 43 of the source's table (R22), and each reaches the constant
or the storage written here (R27, R140). -/
def Obligations.RecognisedAddressesAreThe43 : Prop :=
  sourceCsrAddrs.length = 43 ∧ sourceCsrAddrs.Nodup ∧
  (∀ a : CsrAddr, recognised a = true ↔ a ∈ sourceCsrAddrs) ∧
  ∀ p ∈ ([(0x003#12, .storage .fcsr), (0x008#12, .constant 0x00000000#32), (0x009#12, .storage .vxsat),
        (0x00a#12, .storage .vxrm), (0x300#12, .constant 0x80006600#32), (0x301#12, .constant 0x40201123#32),
        (0x320#12, .storage .mcountinhibit), (0x323#12, .storage (.mhpmevent .three)),
        (0x324#12, .storage (.mhpmevent .four))] ++
      [(0x7c0#12, .storage .cfg0), (0x7c1#12, .storage .pmacfg0), (0x7c2#12, .storage .pmacfg1),
        (0x7c3#12, .storage .cfg1), (0x7c4#12, .storage .hwaMask), (0x7c5#12, .storage .hwaCfg),
        (0x7c6#12, .storage .vgsrc)] ++
      [(0xb00#12, .storage .cycLow), (0xb02#12, .storage .iretLow), (0xb03#12, .storage (.hpmLow .three)),
        (0xb04#12, .storage (.hpmLow .four)), (0xb80#12, .storage .cycHigh), (0xb82#12, .storage .iretHigh),
        (0xb83#12, .storage (.hpmHigh .three)), (0xb84#12, .storage (.hpmHigh .four))] ++
      [(0xbc0#12, .storage .ttCfgQstatus), (0xbc1#12, .storage .ttCfgBstatus),
        (0xbc2#12, .storage (.ttCfgSstatus 0)), (0xbc3#12, .storage (.ttCfgSstatus 1)),
        (0xbc4#12, .storage (.ttCfgSstatus 2)), (0xbc5#12, .storage (.ttCfgSstatus 3)),
        (0xbc6#12, .storage (.ttCfgSstatus 4)), (0xbc7#12, .storage (.ttCfgSstatus 5)),
        (0xbc8#12, .storage (.ttCfgSstatus 6)), (0xbc9#12, .storage (.ttCfgSstatus 7)),
        (0xbca#12, .storage .intpRestorePc)] ++
      [(0xc00#12, .storage .cycLow), (0xc02#12, .storage .iretLow), (0xc20#12, .storage .vl),
        (0xc21#12, .storage .vtype), (0xc22#12, .storage .vlenb), (0xc80#12, .storage .cycHigh),
        (0xc82#12, .storage .iretHigh), (0xf14#12, .constant 0x00000000#32)] : List (CsrAddr × CsrHome)),
    csrHome p.1 = some p.2

/-- Every CSR instruction on any other address stops, whether or not it would read or write, and inside a
handler too (R145). -/
def Obligations.UnrecognisedAddressStops : Prop :=
  ∀ (k : CsrKind) (rd : Reg) (a : CsrAddr) (src : CsrSource) (s : State),
    a ∉ sourceCsrAddrs → exec (csrInstr k rd a src) s = .fault (.unrecognisedCsr a)

/-- Inside a handler (R153): a CSR instruction that would write stops, whatever the recognised CSR, and a pure
read proceeds. -/
def Obligations.HandlerCannotWriteCsrs : Prop :=
  ∀ s : State, s.inHandler = true →
    (∀ (k : CsrKind) (rd : Reg) (a : CsrAddr) (src : CsrSource), a ∈ sourceCsrAddrs →
      (k = .write ∨ src.isZeroField = false) →
      exec (csrInstr k rd a src) s = .fault (.csrWriteInHandler a)) ∧
    (∀ (rd : Reg) (a : CsrAddr), ∀ i ∈ pureReads rd a, a ∈ sourceCsrAddrs → ∃ t, exec i s = .next t)

/-- An instruction that reads and writes an HPM half under `PmcClrOnRd` stops; a pure read reads and
clears; a pure write writes and does not clear bit 64 (R154). -/
def Obligations.ClearOnReadWithWriteStops : Prop :=
  ∀ (rd : Reg) (a : CsrAddr) (n : HpmId) (r : CsrStore) (s : State),
    csrHome a = some (.storage r) → (r = .hpmLow n ∨ r = .hpmHigh n) → s.csr.cfg0.getLsbD 8 = true →
    s.inHandler = false →
    (∀ (k : CsrKind) (src : CsrSource), (k = .write → rd ≠ 0) → (k = .write ∨ src.isZeroField = false) →
      exec (csrInstr k rd a src) s = .fault (.clearOnReadWithWrite a)) ∧
    (∀ i ∈ pureReads rd a, ∃ t, exec i s = .next t ∧ readStore r t = 0#32 ∧ (hpm n t).bit64 = false) ∧
    (∀ src : CsrSource, ∃ t, exec (csrInstr .write 0 a src) s = .next t ∧
      readStore r t = src.value s ∧ (hpm n t).bit64 = (hpm n s).bit64)

/-- No CSR access depends on a privilege mode (R156): on a recognised address an instruction completes,
or one of the three checks of R144, R153 and R154 stops it, and under exactly that check's condition. -/
def Obligations.CsrAccessStopsOnlyByItsChecks : Prop :=
  ∀ (k : CsrKind) (rd : Reg) (a : CsrAddr) (src : CsrSource) (s : State), a ∈ sourceCsrAddrs →
    (∃ t, exec (csrInstr k rd a src) s = .next t) ∨
    (exec (csrInstr k rd a src) s = .fault (.csrWriteInHandler a) ∧ s.inHandler = true ∧
      (k = .write ∨ src.isZeroField = false)) ∨
    (exec (csrInstr k rd a src) s = .fault (.readOnlyCsrWrite a) ∧ s.params.roWrite = .fault ∧
      a ∈ [0x008#12, 0x300#12, 0x301#12, 0xf14#12] ∧ (k = .write ∨ src.isZeroField = false)) ∨
    (exec (csrInstr k rd a src) s = .fault (.clearOnReadWithWrite a) ∧ s.csr.cfg0.getLsbD 8 = true ∧
      a ∈ [0xb03#12, 0xb83#12, 0xb04#12, 0xb84#12] ∧ (k = .write ∨ src.isZeroField = false) ∧
      (k = .write → rd ≠ 0))

/-- The four Zicntr addresses are read/write aliases (R69): an instruction through the alias answers the
same next state as through the `m` name, and what it writes is read through the `m` name. `time` and `timeh`
are not recognised. -/
def Obligations.ZicntrAddressesAreAliases : Prop :=
  recognised 0xc01#12 = false ∧ recognised 0xc81#12 = false ∧
  ∀ p ∈ ([(0xc00#12, 0xb00#12), (0xc02#12, 0xb02#12), (0xc80#12, 0xb80#12), (0xc82#12, 0xb82#12)] :
      List (CsrAddr × CsrAddr)), ∀ (rd : Reg) (s : State),
    (∀ (k : CsrKind) (src : CsrSource),
      (s.inHandler = true → k ≠ .write ∧ src.isZeroField = true) →
      ∃ t, exec (csrInstr k rd p.1 src) s = .next t ∧ exec (csrInstr k rd p.2 src) s = .next t) ∧
    (s.inHandler = false → rd ≠ 0 → ∀ rs1 : Reg, ∃ t u, exec (.csrrw 0 p.1 rs1) s = .next t ∧
      exec (.csrrs rd p.2 0) t = .next u ∧ readReg u rd = readReg s rs1)

/-- `cfg0`, `pmacfg0`, `pmacfg1` and the scratch CSRs keep every bit written (R43, R62, R63), and on RISCV B
and NC so do `tt_cfg_sstatus0` to `7` (R73). -/
def Obligations.FullWidthCsrsKeepEveryBit : Prop :=
  ∀ (a : CsrAddr) (rd rs1 : Reg) (s : State), s.inHandler = false → rd ≠ 0 →
    (a ∈ [0x7c0#12, 0x7c1#12, 0x7c2#12, 0x7c3#12, 0x7c4#12, 0x7c5#12, 0x7c6#12] ∨
      (isBOrNc s.params.coreKind ∧ a ∈ [0xbc2#12, 0xbc3#12, 0xbc4#12, 0xbc5#12, 0xbc6#12, 0xbc7#12,
        0xbc8#12, 0xbc9#12])) →
    ∃ t u, exec (.csrrw 0 a rs1) s = .next t ∧ exec (.csrrs rd a 0) t = .next u ∧
      readReg u rd = readReg s rs1

/-- `x[rs1]` is read before `x[rd]` is written (R155): with one register as source and destination, the CSR
takes the old register combined with its old value, within `WMASK`, and the register the old CSR. Where
every bit of the CSR is writable, `csrrw` swaps the two. -/
def Obligations.SourceIsReadBeforeDestination : Prop :=
  ∀ (q : Reg) (a : CsrAddr) (r : CsrStore) (s : State),
    csrHome a = some (.storage r) → s.inHandler = false → q ≠ 0 →
    (r.isHpmHalf = false ∨ Cfg0.pmcClrOnRd s.csr.cfg0 = false) →
    let old := readStore r s
    let kept := old &&& ~~~(wmask s.params r)
    (∃ t, exec (.csrrw q a q) s = .next t ∧ readReg t q = old ∧
      readStore r t = kept ||| (readReg s q &&& wmask s.params r) ∧
      (wmask s.params r = 0xffffffff#32 → readStore r t = readReg s q)) ∧
    (∃ t, exec (.csrrs q a q) s = .next t ∧ readReg t q = old ∧
      readStore r t = kept ||| ((old ||| readReg s q) &&& wmask s.params r)) ∧
    (∃ t, exec (.csrrc q a q) s = .next t ∧ readReg t q = old ∧
      readStore r t = kept ||| ((old &&& ~~~(readReg s q)) &&& wmask s.params r))

/-- CSRs that no instruction consults but the CSR instructions on their own address: changing one changes
nothing another instruction does (the counters and the memory order do consult some of them). So a write to `vlenb` has no effect on the `vset` instructions (R77), one to
`intp_restore_pc` none on `mret` (R74), and the scratch CSRs configure nothing (R63). -/
def Obligations.UnconsultedCsrsDoNotInterfere : Prop :=
  ∀ r ∈ ([.fcsr, .vxsat, .vxrm, .mcountinhibit, .pmacfg0, .pmacfg1, .cfg1, .hwaMask, .hwaCfg, .vgsrc,
      .intpRestorePc, .vlenb] : List CsrStore), ∀ (i : Instr) (v : Word) (s : State),
    ¬ addressesStore i r → exec i (writeStore r v s) = mapNext (writeStore r v) (exec i s)

/-- No behaviour of the core depends on the reserved `cfg0` bits 6:5, 23:21 and 25 (R45): two states that
differ in those bits alone take the same step, up to those bits, unless the instruction fetched is a CSR
access to `cfg0` itself. -/
def Obligations.ReservedCfg0BitsHaveNoEffect : Prop :=
  ∀ (c : Word) (s : State), c &&& ~~~0x02e00060#32 = s.csr.cfg0 &&& ~~~0x02e00060#32 →
    (∀ i, fetchInstr s = .ok i → ¬ addressesStore i .cfg0) →
    step (writeStore .cfg0 c s) = mapNext (writeStore .cfg0 c) (step s)

/-- Of the instructions, only the CSR instructions on its address change a CSR, and for `vl` and `vtype` also
the `vset` instructions (R24, R100). Ticks, the status feed and the interrupt entry are no instructions. -/
def Obligations.CsrsChangeOnlyByTheirInstructions : Prop :=
  ∀ (i : Instr) (s t : State) (r : CsrStore), exec i s = .next t → readStore r t ≠ readStore r s →
    addressesStore i r ∨ (isVset i = true ∧ (r = .vl ∨ r = .vtype))

/-- An instruction that completes changes no general register but the `rd` it names, and `x0` reads zero
(R21). -/
def Obligations.RegistersChangeOnlyAtDestination : Prop :=
  ∀ (i : Instr) (s t : State) (q : Reg), exec i s = .next t →
    readReg t 0 = 0#32 ∧ (readReg t q ≠ readReg s q → destination i = some q)

/-- After every instruction but `mret` the `pc` is `pc + 4` modulo 2^32; after `mret` it is `ret_pc` (R23, R152,
R171, R175, R178). -/
def Obligations.PcAdvancesByFourUnlessMret : Prop :=
  ∀ (i : Instr) (s t : State), exec i s = .next t →
    (i ≠ .mret → t.pc.toNat = (s.pc.toNat + 4) % 2 ^ 32) ∧ (i = .mret → t.pc = s.retPc)

/-- "bits outside it read as they did before" (R26): no CSR instruction changes a bit outside `WMASK`, and
the masks the source fixes are all ones. -/
def Obligations.BitsOutsideWmaskAreKept : Prop :=
  (∀ (i : Instr) (s t : State) (r : CsrStore), exec i s = .next t → isVset i = false →
    readStore r t &&& ~~~(wmask s.params r) = readStore r s &&& ~~~(wmask s.params r)) ∧
  (∀ (p : Params), ∀ r ∈ ([.cfg0, .pmacfg0, .pmacfg1, .cfg1, .hwaMask, .hwaCfg, .vgsrc] : List CsrStore) ++
    counterStores, wmask p r = 0xffffffff#32)

/-- No instruction sets bit 64 of an HPM counter, and the only instructions that clear it are the pure reads of
a half of that counter under `PmcClrOnRd` (R68, R142; D17). Of instructions alone: HPM events change the bit
too (R212). -/
def Obligations.Bit64ClearsOnlyByClearingRead : Prop :=
  ∀ (i : Instr) (s t : State) (n : HpmId), exec i s = .next t → (hpm n t).bit64 ≠ (hpm n s).bit64 →
    (hpm n t).bit64 = false ∧ s.csr.cfg0.getLsbD 8 = true ∧
      ∃ rd a, i ∈ pureReads rd a ∧
        (csrHome a = some (.storage (.hpmLow n)) ∨ csrHome a = some (.storage (.hpmHigh n)))

/-! ## The other instructions (41_named_instructions.md) -/

/-- The `vset` instructions (R171 to R174): `vl` and `vtype` take the pair that `VSET` answers, whatever it
is, and `rd` the new `vl`. `avl` is `x[rs1]` when `rs1` is not `x0`, "maximum" when only `rd` is not, else
"keep". The answer of `VSET` is a free value (log entry 4). -/
def Obligations.VsetTakesWhatVsetAnswers : Prop :=
  ∀ s : State, Cfg0.unknownSetting s.csr.cfg0 = false → s.inHandler = false →
    let after (rd : Reg) (answer : Word × Word) (t : State) : Prop :=
      readStore .vl t = answer.1 ∧ readStore .vtype t = answer.2 ∧ (rd ≠ 0 → readReg t rd = answer.1) ∧
        t.pc = s.pc + 4#32 ∧ sameBut [rd] [.vl, .vtype] s t
    let avl (rd rs1 : Reg) : Avl :=
      if rs1 ≠ 0 then .register (readReg s rs1) else if rd ≠ 0 then .maximum else .keep
    (∀ (rd rs1 : Reg) (z : BitVec 11), ∃ t, exec (.vsetvli rd rs1 z) s = .next t ∧
      after rd (Config.vset .vli (avl rd rs1) (BitVec.ofNat 32 z.toNat) s.csr.vl s.csr.vtype) t) ∧
    (∀ (rd : Reg) (u : BitVec 5) (z : BitVec 11), ∃ t, exec (.vsetivli rd u z) s = .next t ∧
      after rd (Config.vset .ivli (.immediate (BitVec.ofNat 32 u.toNat)) (BitVec.ofNat 32 z.toNat) s.csr.vl
        s.csr.vtype) t) ∧
    (∀ rd rs1 rs2 : Reg, ∃ t, exec (.vsetvl rd rs1 rs2) s = .next t ∧
      after rd (Config.vset .vl (avl rd rs1) (readReg s rs2) s.csr.vl s.csr.vtype) t)

/-- `fence` advances the `pc` and reads and writes no register and no CSR, inside a handler too (R175). -/
def Obligations.FenceOnlyAdvancesPc : Prop :=
  ∀ (fm : BitVec 4) (p q : FenceSet) (s : State), Cfg0.unknownSetting s.csr.cfg0 = false →
    ∃ t, exec (.fence fm p q) s = .next t ∧ t.pc = s.pc + 4#32 ∧ sameBut [] [] s t

/-- `ecall` and `ebreak` stop in every state: the spec gives them no meaning. Each is one word, and each is in
the `DisCsrSync` list (R176, R177). -/
def Obligations.EcallAndEbreakStop : Prop :=
  (∀ s : State, exec .ecall s = .fault (.unmodelled .ecall) ∧
    exec .ebreak s = .fault (.unmodelled .ebreak)) ∧
  (∀ w : Word, decodeWord w = .ok .ecall ↔ w = 0x00000073#32) ∧
  (∀ w : Word, decodeWord w = .ok .ebreak ↔ w = 0x00100073#32) ∧
  inCsrSyncList .ecall = true ∧ inCsrSyncList .ebreak = true

/-- `mret` in a handler (R178, R199): `pc` takes `ret_pc`, `in_handler` is cleared, and nothing else
changes; and no other instruction leaves a handler. -/
def Obligations.MretReturns : Prop :=
  ∀ s : State, s.inHandler = true →
    (Cfg0.unknownSetting s.csr.cfg0 = false →
      ∃ t, exec .mret s = .next t ∧ t.pc = s.retPc ∧ t.inHandler = false ∧ t.retPc = s.retPc ∧
        sameRegsBut [] s t ∧ sameCsrsBut [] s t ∧ sameBit64 s t ∧ sameMemory s t ∧ sameOutside s t) ∧
    (∀ (i : Instr) (t : State), exec i s = .next t → t.inHandler = false → i = .mret)

/-- `mret` with no interrupt to return from stops (R178). -/
def Obligations.MretOutsideHandlerStops : Prop :=
  ∀ s : State, Cfg0.unknownSetting s.csr.cfg0 = false → s.inHandler = false →
    exec .mret s = .fault .mretOutsideHandler

/-- While one of the six `cfg0` fields of unknown purpose (bits 0, 4, 11, 19, 27:26, 28) differs from 0,
everything but CSR reads and writes is outside the spec (R46; D20): `fence`, `mret`, the `vset` instructions
and the interrupt entry are refused. -/
def Obligations.UnknownCfg0SettingRefuses : Prop :=
  ∀ s : State, s.csr.cfg0 &&& 0x1c080811#32 ≠ 0#32 →
    (∀ i : Instr, isVset i = true → exec i s = .refused .unknownCfg0Setting) ∧
    (∀ (fm : BitVec 4) (p q : FenceSet), exec (.fence fm p q) s = .refused .unknownCfg0Setting) ∧
    exec .mret s = .refused .unknownCfg0Setting ∧
    (s.csr.cfg0.getLsbD 10 = false → (currentBoundary s).intPending = true →
      step s = .refused .unknownCfg0Setting)

/-! ## Interrupts (60_exceptions.md) -/

/-- `IntEntry` (R197): where an interrupt is pending and no handler runs, the step saves the `pc` of the
next instruction in `ret_pc` and in `intp_restore_pc`, enters the handler at `INT_VECTOR`, answers the
request and changes nothing else. -/
def Obligations.InterruptEntrySavesPc : Prop :=
  ∀ s : State, described s → (currentBoundary s).intPending = true → s.inHandler = false →
    ∃ t, step s = .next t ∧ t.retPc = s.pc ∧ readStore .intpRestorePc t = s.pc ∧ t.inHandler = true ∧
      t.pc = intVector s.params ∧ quiet t ∧ sameRegsBut [] s t ∧ sameCsrsBut [.intpRestorePc] s t ∧
      sameBit64 s t ∧ sameMemory s t ∧ t.params = s.params ∧ t.boundary = s.boundary ∧
      t.inputs.tail = s.inputs.tail

/-- An interrupt pending while a handler runs stops the machine (R200). -/
def Obligations.NestedInterruptStops : Prop :=
  ∀ s : State, described s → (currentBoundary s).intPending = true → s.inHandler = true →
    step s = .fault .nestedInterrupt

/-- Only the interrupt entry changes `ret_pc` or enters a handler, and only `mret` leaves one; a step inside
a handler that does not leave it keeps `intp_restore_pc` and `ret_pc` (R74, R80, R198, R199). -/
def Obligations.ReturnAddressChangesOnlyAtEntry : Prop :=
  ∀ s t : State, step s = .next t →
    (t.retPc = s.retPc ∧ t.inHandler = s.inHandler ∧
      (s.inHandler = true → t.csr.intpRestorePc = s.csr.intpRestorePc)) ∨
    ((currentBoundary s).intPending = true ∧ s.inHandler = false ∧ t.inHandler = true ∧ t.retPc = s.pc) ∨
    (fetchInstr s = .ok .mret ∧ s.inHandler = true ∧ t.inHandler = false ∧ t.retPc = s.retPc ∧
      t.pc = s.retPc)

/-- An interrupt entry and then `mret` come back to the interrupted instruction, whatever
`intp_restore_pc` held before (R74, R178, R197). -/
def Obligations.EntryThenMretComesBack : Prop :=
  ∀ s : State, described s → (currentBoundary s).intPending = true → s.inHandler = false →
    ∃ t u, step s = .next t ∧ exec .mret t = .next u ∧ u.pc = s.pc ∧ u.inHandler = false ∧
      sameRegsBut [] s u ∧ sameCsrsBut [.intpRestorePc] s u ∧ sameMemory s u

/-! ## The step -/

/-- Where no interrupt is pending and the bytes at an aligned `pc` decode to `i`, the step is `exec i` in
the state after the boundary's agents, and then passes the boundary (R121). R16 gives each agent a step of its
own; that one step of the model is the agents of a listed boundary, then the instruction, then the next
boundary is the model's choice (log entries 2 and 10). -/
def Obligations.StepRunsDecodedInstruction : Prop :=
  ∀ (s : State) (i : Instr) (bytes rest : List Byte), Cfg0.unsynchronised s.csr.cfg0 = false → quiet s →
    aligned4 s.pc = true → fetchBytes s = some bytes → decode bytes = .ok (i, rest) →
    step s = match exec i (applyBoundary (currentBoundary s) s) with
      | .next u => .next { u with inputs := u.inputs.tail, boundary := u.boundary + 1 }
      | .fault r => .fault r
      | .refused r => .refused r

/-- Where there is no instruction to run the step stops by name: a word that matches no row (R132), a `pc`
that is no multiple of 4 (log entry 7), a byte with no value (log entry 6). -/
def Obligations.FetchStopsByName : Prop :=
  ∀ s : State, Cfg0.unsynchronised s.csr.cfg0 = false → quiet s →
    (aligned4 s.pc = false → step s = .fault (.misalignedFetch s.pc)) ∧
    (aligned4 s.pc = true → fetchBytes s = none → step s = .fault (.unwrittenFetch s.pc)) ∧
    (∀ w : Word, aligned4 s.pc = true → fetchBytes s = some (bytesOfWord w) →
      (∀ p ∈ opcodeMap, p.matches w = false) → step s = .fault (.illegalEncoding w))

/-- A word loaded where the step fetches is the instruction the very next step runs. The load, which counts a
pending request as answered, is the model's choice (log entry 9), and so is the order of the boundary's agents
before the instruction (log entries 2 and 10). -/
def Obligations.LoadedWordRunsNext : Prop :=
  ∀ (s : State) (w : Word) (i : Instr), Cfg0.unsynchronised s.csr.cfg0 = false → aligned4 s.pc = true →
    decodeWord w = .ok i →
    step (s.withFetchWord 32 w.toNat) = mapNext passBoundary
      (exec i (applyBoundary (currentBoundary (s.withFetchWord 32 w.toNat)) (s.withFetchWord 32 w.toNat)))

/-! ## Reset (70_reset_and_hazards.md) -/

/-- The values the source gives for reset (R44, R77, R82), as state and as the first reads return them, and
every other piece of state as the launch has it, zero or not (R232). `State.reset` is one such launch; that
its memory is empty is the model's choice (log entry 9). -/
def Obligations.ResetGivesSourceValues : Prop :=
  (∀ l : Launch,
    (State.launch l).csr.cfg0 = 0x00020000#32 ∧ Cfg0.stMergeTimer (State.launch l).csr.cfg0 = 16 ∧
    (State.launch l).csr.vlenb = 16#32 ∧ (State.launch l).inHandler = false ∧
    (∀ rd : Reg, rd ≠ 0 →
      (∃ t, exec (.csrrs rd 0x7c0#12 0) (State.launch l) = .next t ∧ readReg t rd = 0x00020000#32) ∧
      (∃ t, exec (.csrrs rd 0xc22#12 0) (State.launch l) = .next t ∧ readReg t rd = 16#32)) ∧
    (State.launch l).csr = { l.csr with cfg0 := 0x00020000#32, vlenb := 16#32 } ∧
    (State.launch l).cyc = l.cyc ∧ (State.launch l).iret = l.iret ∧
    (State.launch l).hpm3 = l.hpm3 ∧ (State.launch l).hpm4 = l.hpm4 ∧
    (State.launch l).retPc = l.retPc ∧ (State.launch l).regs = l.regs ∧ (State.launch l).pc = l.pc ∧
    (State.launch l).mem = l.mem ∧ (State.launch l).params = l.params) ∧
  State.reset = State.launch resetLaunch ∧ State.reset.mem = []

/-- The configuration in force after reset (R233), for every launch. -/
def Obligations.ResetConfigurationInForce : Prop :=
  ∀ l : Launch,
    let c := (State.launch l).csr.cfg0
    Cfg0.disBp c = false ∧ Cfg0.disIcPrefetch c = false ∧ Cfg0.disLowCash c = false ∧
    Cfg0.disLowCachePeriodicFlush c = false ∧ Cfg0.disStMerge c = false ∧ Cfg0.stMergeTimer c = 16 ∧
    Cfg0.disTriscCache c = false ∧ Cfg0.disRegForwarding c = false ∧
    (∀ i : Instr, drainsPipeline c i = true ↔ i ≠ .mret) ∧ Cfg0.syncAllOps c = false ∧
    Cfg0.disPmcWrapArnd c = false ∧ Cfg0.pmcClrOnRd c = false ∧ Cfg0.disTTStatusReg c = false ∧
    zfhFormat c = .fp16 ∧ Cfg0.unknownSetting c = false

/-! ## Invariants -/

/-- Every step keeps the invariant: memory in its canonical form, `pc` and a handler's `ret_pc` multiples of
4, and `intp_restore_pc` in a handler the `pc` to which `mret` will return (R74, R121, R198). -/
def Obligations.StepKeepsInv : Prop := ∀ s t : State, Inv s → step s = .next t → Inv t

/-- The invariant holds after reset: at `State.reset`, and at every launch with a canonical memory and an
aligned `RESET_PC` (D7). -/
def Obligations.ResetHasInv : Prop :=
  Inv State.reset ∧ ∀ l : Launch, l.mem.wf → aligned4 l.pc = true → Inv (State.launch l)

/-- No step changes memory or the core's parameters: the spec has no store (R105; D22), and the parameters
are configuration (R20). -/
def Obligations.StepNeverChangesMemory : Prop :=
  ∀ s t : State, step s = .next t → t.params = s.params ∧ sameMemory s t

/-! ## Counters and the status feed (60_exceptions.md) -/

/-- The agents of a boundary change only the four counters and the ten status CSRs (R16, R205, R215). -/
def Obligations.BoundaryChangesOnlyCountersAndStatus : Prop :=
  ∀ (b : Boundary) (s : State),
    sameRegsBut [] s (applyBoundary b s) ∧
    sameCsrsBut (counterStores ++ statusStores) s (applyBoundary b s) ∧
    (applyBoundary b s).pc = s.pc ∧ sameMemory s (applyBoundary b s) ∧
    sameTrapState s (applyBoundary b s) ∧ sameOutside s (applyBoundary b s)

/-- `cyc` and `iret` advance by the boundary's draws modulo 2^64, whatever `mcountinhibit` and `cfg0` hold
(R39, R206 to R209); read through CSR instructions, the two halves make up that number. -/
def Obligations.CycleAndRetireCountersAdvance : Prop :=
  ∀ (b : Boundary) (s : State) (inhibit cfg0 : Word),
    let t := applyBoundary b (writeStore .mcountinhibit inhibit (writeStore .cfg0 cfg0 s))
    (readStore .cycHigh t).toNat * 2 ^ 32 + (readStore .cycLow t).toNat =
      (s.cyc.toNat + b.cycTicks) % 2 ^ 64 ∧
    (readStore .iretHigh t).toNat * 2 ^ 32 + (readStore .iretLow t).toNat =
      (s.iret.toNat + b.iretTicks) % 2 ^ 64

/-- The single-event rule (R212): inhibited, stopped at 2^64, counted, and passing 2^64, where a carry out
of 65 bits leaves bit 64 to the draw. -/
def Obligations.HpmEventRule : Prop :=
  ∀ p ∈ ([(.three, 3), (.four, 4)] : List (HpmId × Nat)), ∀ (c : CsrFile) (draw : Bool) (h : HpmCounter),
    (c.mcountinhibit.getLsbD p.2 = true → hpmEventStep c p.1 draw h = h) ∧
    (c.cfg0.getLsbD 7 = true → h.bit64 = true → hpmEventStep c p.1 draw h = h) ∧
    (c.mcountinhibit.getLsbD p.2 = false → (c.cfg0.getLsbD 7 = false ∨ h.bit64 = false) →
      (h.low ≠ 0xffffffffffffffff#64 →
        (hpmEventStep c p.1 draw h).low = h.low + 1#64 ∧ (hpmEventStep c p.1 draw h).bit64 = h.bit64) ∧
      (h.low = 0xffffffffffffffff#64 →
        (hpmEventStep c p.1 draw h).low = 0#64 ∧
          (hpmEventStep c p.1 draw h).bit64 = if h.bit64 = false then true else draw))

/-- What a counter holds after `k` events (R50, R206, R212): unchanged if inhibited; under `DisPmcWrapArnd`
it stops at 2^64; otherwise it counts on, and below 2^65 no draw plays a part. A boundary applies to `hpm3` and
`hpm4` as many events as it reports of the kind `mhpmevent3` and `mhpmevent4` select (R41, R42, R211), under
the configuration in force before it: the number beside the selector's first entry, none where it has no
entry (the form of the report is log entry 26, the draw log entry 5). -/
def Obligations.HpmCounterAfterEvents : Prop :=
  (∀ (c : CsrFile) (n : HpmId) (draw : Nat → Bool) (k : Nat) (h : HpmCounter),
    (hpmInhibited c.mcountinhibit n = true → hpmEvents c n draw k h = h) ∧
    (hpmInhibited c.mcountinhibit n = false → Cfg0.disPmcWrapArnd c.cfg0 = true → h.bit64 = false →
      hpmValue (hpmEvents c n draw k h) = min (hpmValue h + k) (2 ^ 64)) ∧
    (hpmInhibited c.mcountinhibit n = false → Cfg0.disPmcWrapArnd c.cfg0 = true → h.bit64 = true →
      hpmEvents c n draw k h = h) ∧
    (hpmInhibited c.mcountinhibit n = false → Cfg0.disPmcWrapArnd c.cfg0 = false →
      hpmValue h + k < 2 ^ 65 → hpmValue (hpmEvents c n draw k h) = hpmValue h + k)) ∧
  (∀ (b : Boundary) (s : State),
    (∃ draw, (applyBoundary b s).hpm3 =
      hpmEvents s.csr .three draw (eventCount b.hpm3Events s.csr.mhpmevent3) s.hpm3) ∧
    (∃ draw, (applyBoundary b s).hpm4 =
      hpmEvents s.csr .four draw (eventCount b.hpm4Events s.csr.mhpmevent4) s.hpm4)) ∧
  (∀ (before after : List (Word × Nat)) (sel : Word) (k : Nat), (∀ e ∈ before, e.1 ≠ sel) →
    eventCount (before ++ (sel, k) :: after) sel = k ∧ eventCount before sel = 0)

/-- With `cfg0.DisTTStatusReg` set the boundary leaves the ten status CSRs frozen; on RISCV B and NC it
never touches `tt_cfg_sstatus0` to `7`, whatever that bit holds (R59, R73, R215). -/
def Obligations.FrozenStatusIsNotFed : Prop :=
  ∀ (b : Boundary) (s : State),
    (s.csr.cfg0.getLsbD 29 = true → ∀ r ∈ statusStores,
      readStore r (applyBoundary b s) = readStore r s) ∧
    (isBOrNc s.params.coreKind → ∀ j : Fin 8,
      readStore (.ttCfgSstatus j) (applyBoundary b s) = readStore (.ttCfgSstatus j) s)

/-- A live status CSR takes what the feed writes (R215), and a hardware-written value meets the equalities of
R216. "The source does not say the copies are updated in the same instant as their originals", and keeping the
equalities at every feed is the model's choice (log entry 16): bit 24 of `tt_cfg_qstatus` copies bit 11; on RISCV B and NC the low masks copy the OR-reduced ones; on RISCV
T<sub>i</sub> the low masks are the thread's own and the `tt_cfg_sstatus` CSRs follow the feed. -/
def Obligations.LiveStatusFollowsTheFeed : Prop :=
  ∀ (b : Boundary) (s : State), s.csr.cfg0.getLsbD 29 = false →
    let t := applyBoundary b s
    (∀ f, b.qstatus = some f →
      Qstatus.orMask t.csr.ttCfgQstatus = f.orMask ∧ Qstatus.sfpuCc t.csr.ttCfgQstatus = f.sfpuCc ∧
      Qstatus.sfpuCcCopy t.csr.ttCfgQstatus = Qstatus.sfpuCc t.csr.ttCfgQstatus ∧
      (isBOrNc s.params.coreKind →
        Qstatus.queueMask t.csr.ttCfgQstatus = Qstatus.orMask t.csr.ttCfgQstatus) ∧
      (∀ j, s.params.coreKind = .t j → Qstatus.queueMask t.csr.ttCfgQstatus = f.threadMask)) ∧
    (∀ f, b.bstatus = some f →
      Bstatus.orMask t.csr.ttCfgBstatus = f.orMask ∧
      (isBOrNc s.params.coreKind →
        Bstatus.busyMask t.csr.ttCfgBstatus = Bstatus.orMask t.csr.ttCfgBstatus) ∧
      (∀ j, s.params.coreKind = .t j → Bstatus.busyMask t.csr.ttCfgBstatus = f.threadMask)) ∧
    (b.qstatus = none → t.csr.ttCfgQstatus = s.csr.ttCfgQstatus) ∧
    (b.bstatus = none → t.csr.ttCfgBstatus = s.csr.ttCfgBstatus) ∧
    (∀ (j : Nat) (k : Fin 8), s.params.coreKind = .t j →
      readStore (.ttCfgSstatus k) t = (b.sstatus[k]).getD (readStore (.ttCfgSstatus k) s))

/-! ## Hazards and memory order -/

/-- A write that brings `cfg0[10]` to 1 with `cfg0[9]` at 0 completes and is visible, and the model refuses
every later step (R240; D28). -/
def Obligations.UnsynchronisedCoreIsRefused : Prop :=
  (∀ s : State, s.csr.cfg0.getLsbD 10 = true → s.csr.cfg0.getLsbD 9 = false →
    step s = .refused .csrSyncDisabled) ∧
  (∀ (rd rs1 : Reg) (s : State), s.inHandler = false →
    ∃ t, exec (.csrrw rd 0x7c0#12 rs1) s = .next t ∧ t.csr.cfg0 = readReg s rs1 ∧
      ((readReg s rs1).getLsbD 10 = true → (readReg s rs1).getLsbD 9 = false →
        step t = .refused .csrSyncDisabled))

/-- Loads and stores are strongly ordered exactly while the low bit of either `pmacfg` is set, whatever
bits 31:1 hold (R107, R108); `csrrsi` and `csrrci` on either CSR switch it for the next instruction. -/
def Obligations.PmacfgLowBitsOrderMemory : Prop :=
  (∀ (v w : BitVec 31) (x y : Bool) (s : State),
    stronglyOrdered (writeStore .pmacfg0 (v ++ BitVec.ofBool x) (writeStore .pmacfg1 (w ++ BitVec.ofBool y) s))
      = (x || y)) ∧
  (∀ s : State, s.inHandler = false → ∀ a ∈ [0x7c1#12, 0x7c2#12],
    ∃ t u, exec (.csrrsi 0 a 1#5) s = .next t ∧ stronglyOrdered t = true ∧
      exec (.csrrci 0 a 1#5) t = .next u ∧
      (stronglyOrdered u = true ↔
        (a = 0x7c1#12 ∧ pmacfgEn s.csr.pmacfg1 = true) ∨ (a = 0x7c2#12 ∧ pmacfgEn s.csr.pmacfg0 = true)))

/-! ## Added after the first review -/

/-- Every address reads the storage R140 names for it, as a field of the state: for each of the 43, the four
pure-read forms put that value in `rd`, in every state. `Const` and `HpmHalf` hold for exactly the addresses
R140 lists. -/
def Obligations.CsrAddressesReadTheirStorage : Prop :=
  (∀ p ∈ ([(0x003#12, fun s => s.csr.fcsr), (0x008#12, fun _ => 0x00000000#32), (0x009#12, fun s => s.csr.vxsat),
        (0x00a#12, fun s => s.csr.vxrm), (0x300#12, fun _ => 0x80006600#32), (0x301#12, fun _ => 0x40201123#32),
        (0x320#12, fun s => s.csr.mcountinhibit), (0x323#12, fun s => s.csr.mhpmevent3),
        (0x324#12, fun s => s.csr.mhpmevent4)] ++
      [(0x7c0#12, fun s => s.csr.cfg0), (0x7c1#12, fun s => s.csr.pmacfg0), (0x7c2#12, fun s => s.csr.pmacfg1),
        (0x7c3#12, fun s => s.csr.cfg1), (0x7c4#12, fun s => s.csr.hwaMask), (0x7c5#12, fun s => s.csr.hwaCfg),
        (0x7c6#12, fun s => s.csr.vgsrc)] ++
      [(0xb00#12, fun s => s.cyc.extractLsb' 0 32), (0xb02#12, fun s => s.iret.extractLsb' 0 32),
        (0xb03#12, fun s => s.hpm3.low.extractLsb' 0 32), (0xb04#12, fun s => s.hpm4.low.extractLsb' 0 32),
        (0xb80#12, fun s => s.cyc.extractLsb' 32 32), (0xb82#12, fun s => s.iret.extractLsb' 32 32),
        (0xb83#12, fun s => s.hpm3.low.extractLsb' 32 32), (0xb84#12, fun s => s.hpm4.low.extractLsb' 32 32)] ++
      [(0xbc0#12, fun s => s.csr.ttCfgQstatus), (0xbc1#12, fun s => s.csr.ttCfgBstatus),
        (0xbc2#12, fun s => s.csr.ttCfgSstatus[0]), (0xbc3#12, fun s => s.csr.ttCfgSstatus[1]),
        (0xbc4#12, fun s => s.csr.ttCfgSstatus[2]), (0xbc5#12, fun s => s.csr.ttCfgSstatus[3]),
        (0xbc6#12, fun s => s.csr.ttCfgSstatus[4]), (0xbc7#12, fun s => s.csr.ttCfgSstatus[5]),
        (0xbc8#12, fun s => s.csr.ttCfgSstatus[6]), (0xbc9#12, fun s => s.csr.ttCfgSstatus[7]),
        (0xbca#12, fun s => s.csr.intpRestorePc)] ++
      [(0xc00#12, fun s => s.cyc.extractLsb' 0 32), (0xc02#12, fun s => s.iret.extractLsb' 0 32),
        (0xc20#12, fun s => s.csr.vl), (0xc21#12, fun s => s.csr.vtype), (0xc22#12, fun s => s.csr.vlenb),
        (0xc80#12, fun s => s.cyc.extractLsb' 32 32), (0xc82#12, fun s => s.iret.extractLsb' 32 32),
        (0xf14#12, fun _ => 0x00000000#32)] : List (CsrAddr × (State → Word))),
    ∀ (rd : Reg) (s : State), rd ≠ 0 → ∀ i ∈ pureReads rd p.1,
      ∃ t, exec i s = .next t ∧ readReg t rd = p.2 s) ∧
  (∀ (a : CsrAddr) (home : CsrHome), csrHome a = some home →
    (home.isConstant = true ↔ a ∈ [0x008#12, 0x300#12, 0x301#12, 0xf14#12]) ∧
    (home.isHpmHalf = true ↔ a ∈ [0xb03#12, 0xb83#12, 0xb04#12, 0xb84#12]))

/-- Inside a handler the three `vset` instructions stop with the address of `vl` (R171). That the handler bug
of R153 reaches them is the spec's own reading (D15; log entry 25). -/
def Obligations.VsetInHandlerStops : Prop :=
  ∀ s : State, s.inHandler = true → Cfg0.unknownSetting s.csr.cfg0 = false → ∀ i : Instr, isVset i = true →
    exec i s = .fault (.csrWriteInHandler 0xc20#12)
end

