-- ==== Sys2Proof/Laws/State.lean ====
section
/-! SUPPORT. One lemma per field per update of State. -/

namespace Sys2Proof.Machine

/-! ## `setPc`, `advancePc` -/

@[simp] theorem setPc_pc (t : Word) (s : State) : (setPc t s).pc = t := rfl
@[simp] theorem setPc_regs (t : Word) (s : State) : (setPc t s).regs = s.regs := rfl
@[simp] theorem setPc_csr (t : Word) (s : State) : (setPc t s).csr = s.csr := rfl
@[simp] theorem setPc_cyc (t : Word) (s : State) : (setPc t s).cyc = s.cyc := rfl
@[simp] theorem setPc_iret (t : Word) (s : State) : (setPc t s).iret = s.iret := rfl
@[simp] theorem setPc_hpm3 (t : Word) (s : State) : (setPc t s).hpm3 = s.hpm3 := rfl
@[simp] theorem setPc_hpm4 (t : Word) (s : State) : (setPc t s).hpm4 = s.hpm4 := rfl
@[simp] theorem setPc_retPc (t : Word) (s : State) : (setPc t s).retPc = s.retPc := rfl
@[simp] theorem setPc_inHandler (t : Word) (s : State) : (setPc t s).inHandler = s.inHandler := rfl
@[simp] theorem setPc_mem (t : Word) (s : State) : (setPc t s).mem = s.mem := rfl
@[simp] theorem setPc_params (t : Word) (s : State) : (setPc t s).params = s.params := rfl
@[simp] theorem setPc_inputs (t : Word) (s : State) : (setPc t s).inputs = s.inputs := rfl
@[simp] theorem setPc_boundary (t : Word) (s : State) : (setPc t s).boundary = s.boundary := rfl

@[simp] theorem advancePc_pc (s : State) : (advancePc s).pc = s.pc + 4#32 := rfl
@[simp] theorem advancePc_regs (s : State) : (advancePc s).regs = s.regs := rfl
@[simp] theorem advancePc_csr (s : State) : (advancePc s).csr = s.csr := rfl
@[simp] theorem advancePc_cyc (s : State) : (advancePc s).cyc = s.cyc := rfl
@[simp] theorem advancePc_iret (s : State) : (advancePc s).iret = s.iret := rfl
@[simp] theorem advancePc_hpm3 (s : State) : (advancePc s).hpm3 = s.hpm3 := rfl
@[simp] theorem advancePc_hpm4 (s : State) : (advancePc s).hpm4 = s.hpm4 := rfl
@[simp] theorem advancePc_retPc (s : State) : (advancePc s).retPc = s.retPc := rfl
@[simp] theorem advancePc_inHandler (s : State) : (advancePc s).inHandler = s.inHandler := rfl
@[simp] theorem advancePc_mem (s : State) : (advancePc s).mem = s.mem := rfl
@[simp] theorem advancePc_params (s : State) : (advancePc s).params = s.params := rfl
@[simp] theorem advancePc_inputs (s : State) : (advancePc s).inputs = s.inputs := rfl
@[simp] theorem advancePc_boundary (s : State) : (advancePc s).boundary = s.boundary := rfl

/-! ## `writeReg` -/

/-- A register write is a change of `regs` alone. -/
theorem writeReg_eq (r : Reg) (v : Word) (s : State) :
    writeReg r v s = { s with regs := (writeReg r v s).regs } := by
  unfold writeReg; split <;> rfl

@[simp] theorem writeReg_pc (r : Reg) (v : Word) (s : State) : (writeReg r v s).pc = s.pc := by
  rw [writeReg_eq]
@[simp] theorem writeReg_csr (r : Reg) (v : Word) (s : State) : (writeReg r v s).csr = s.csr := by
  rw [writeReg_eq]
@[simp] theorem writeReg_cyc (r : Reg) (v : Word) (s : State) : (writeReg r v s).cyc = s.cyc := by
  rw [writeReg_eq]
@[simp] theorem writeReg_iret (r : Reg) (v : Word) (s : State) : (writeReg r v s).iret = s.iret := by
  rw [writeReg_eq]
@[simp] theorem writeReg_hpm3 (r : Reg) (v : Word) (s : State) : (writeReg r v s).hpm3 = s.hpm3 := by
  rw [writeReg_eq]
@[simp] theorem writeReg_hpm4 (r : Reg) (v : Word) (s : State) : (writeReg r v s).hpm4 = s.hpm4 := by
  rw [writeReg_eq]
@[simp] theorem writeReg_retPc (r : Reg) (v : Word) (s : State) : (writeReg r v s).retPc = s.retPc := by
  rw [writeReg_eq]
@[simp] theorem writeReg_inHandler (r : Reg) (v : Word) (s : State) :
    (writeReg r v s).inHandler = s.inHandler := by rw [writeReg_eq]
@[simp] theorem writeReg_mem (r : Reg) (v : Word) (s : State) : (writeReg r v s).mem = s.mem := by
  rw [writeReg_eq]
@[simp] theorem writeReg_params (r : Reg) (v : Word) (s : State) :
    (writeReg r v s).params = s.params := by rw [writeReg_eq]
@[simp] theorem writeReg_inputs (r : Reg) (v : Word) (s : State) :
    (writeReg r v s).inputs = s.inputs := by rw [writeReg_eq]
@[simp] theorem writeReg_boundary (r : Reg) (v : Word) (s : State) :
    (writeReg r v s).boundary = s.boundary := by rw [writeReg_eq]

/-! ## `setHpm` -/

@[simp] theorem setHpm_regs (n : HpmId) (h : HpmCounter) (s : State) : (setHpm n h s).regs = s.regs := by
  cases n <;> rfl
@[simp] theorem setHpm_pc (n : HpmId) (h : HpmCounter) (s : State) : (setHpm n h s).pc = s.pc := by
  cases n <;> rfl
@[simp] theorem setHpm_csr (n : HpmId) (h : HpmCounter) (s : State) : (setHpm n h s).csr = s.csr := by
  cases n <;> rfl
@[simp] theorem setHpm_cyc (n : HpmId) (h : HpmCounter) (s : State) : (setHpm n h s).cyc = s.cyc := by
  cases n <;> rfl
@[simp] theorem setHpm_iret (n : HpmId) (h : HpmCounter) (s : State) : (setHpm n h s).iret = s.iret := by
  cases n <;> rfl
@[simp] theorem setHpm_retPc (n : HpmId) (h : HpmCounter) (s : State) :
    (setHpm n h s).retPc = s.retPc := by cases n <;> rfl
@[simp] theorem setHpm_inHandler (n : HpmId) (h : HpmCounter) (s : State) :
    (setHpm n h s).inHandler = s.inHandler := by cases n <;> rfl
@[simp] theorem setHpm_mem (n : HpmId) (h : HpmCounter) (s : State) : (setHpm n h s).mem = s.mem := by
  cases n <;> rfl
@[simp] theorem setHpm_params (n : HpmId) (h : HpmCounter) (s : State) :
    (setHpm n h s).params = s.params := by cases n <;> rfl
@[simp] theorem setHpm_inputs (n : HpmId) (h : HpmCounter) (s : State) :
    (setHpm n h s).inputs = s.inputs := by cases n <;> rfl
@[simp] theorem setHpm_boundary (n : HpmId) (h : HpmCounter) (s : State) :
    (setHpm n h s).boundary = s.boundary := by cases n <;> rfl
@[simp] theorem hpm_setHpm_same (n : HpmId) (h : HpmCounter) (s : State) : hpm n (setHpm n h s) = h := by
  cases n <;> rfl
theorem hpm_setHpm_other {n m : HpmId} (hne : m ≠ n) (h : HpmCounter) (s : State) :
    hpm m (setHpm n h s) = hpm m s := by
  cases n <;> cases m <;> first | rfl | exact absurd rfl hne
@[simp] theorem hpm_setPc (n : HpmId) (t : Word) (s : State) : hpm n (setPc t s) = hpm n s := by
  cases n <;> rfl
@[simp] theorem hpm_advancePc (n : HpmId) (s : State) : hpm n (advancePc s) = hpm n s := by
  cases n <;> rfl
@[simp] theorem hpm_writeReg (n : HpmId) (r : Reg) (v : Word) (s : State) :
    hpm n (writeReg r v s) = hpm n s := by
  cases n <;> simp [hpm]

/-! ## Interrupt entry and return -/

@[simp] theorem intEntry_regs (s : State) : (intEntry s).regs = s.regs := rfl
@[simp] theorem intEntry_pc (s : State) : (intEntry s).pc = intVector s.params := rfl
@[simp] theorem intEntry_csr (s : State) :
    (intEntry s).csr = { s.csr with intpRestorePc := s.pc } := rfl
@[simp] theorem intEntry_cyc (s : State) : (intEntry s).cyc = s.cyc := rfl
@[simp] theorem intEntry_iret (s : State) : (intEntry s).iret = s.iret := rfl
@[simp] theorem intEntry_hpm3 (s : State) : (intEntry s).hpm3 = s.hpm3 := rfl
@[simp] theorem intEntry_hpm4 (s : State) : (intEntry s).hpm4 = s.hpm4 := rfl
@[simp] theorem intEntry_retPc (s : State) : (intEntry s).retPc = s.pc := rfl
@[simp] theorem intEntry_inHandler (s : State) : (intEntry s).inHandler = true := rfl
@[simp] theorem intEntry_mem (s : State) : (intEntry s).mem = s.mem := rfl
@[simp] theorem intEntry_params (s : State) : (intEntry s).params = s.params := rfl
@[simp] theorem intEntry_inputs (s : State) : (intEntry s).inputs = s.inputs := rfl
@[simp] theorem intEntry_boundary (s : State) : (intEntry s).boundary = s.boundary := rfl

@[simp] theorem intReturn_regs (s : State) : (intReturn s).regs = s.regs := rfl
@[simp] theorem intReturn_pc (s : State) : (intReturn s).pc = s.retPc := rfl
@[simp] theorem intReturn_csr (s : State) : (intReturn s).csr = s.csr := rfl
@[simp] theorem intReturn_cyc (s : State) : (intReturn s).cyc = s.cyc := rfl
@[simp] theorem intReturn_iret (s : State) : (intReturn s).iret = s.iret := rfl
@[simp] theorem intReturn_hpm3 (s : State) : (intReturn s).hpm3 = s.hpm3 := rfl
@[simp] theorem intReturn_hpm4 (s : State) : (intReturn s).hpm4 = s.hpm4 := rfl
@[simp] theorem intReturn_retPc (s : State) : (intReturn s).retPc = s.retPc := rfl
@[simp] theorem intReturn_inHandler (s : State) : (intReturn s).inHandler = false := rfl
@[simp] theorem intReturn_mem (s : State) : (intReturn s).mem = s.mem := rfl
@[simp] theorem intReturn_params (s : State) : (intReturn s).params = s.params := rfl
@[simp] theorem intReturn_inputs (s : State) : (intReturn s).inputs = s.inputs := rfl
@[simp] theorem intReturn_boundary (s : State) : (intReturn s).boundary = s.boundary := rfl

/-! ## Boundaries -/

@[simp] theorem passBoundary_regs (s : State) : (passBoundary s).regs = s.regs := rfl
@[simp] theorem passBoundary_pc (s : State) : (passBoundary s).pc = s.pc := rfl
@[simp] theorem passBoundary_csr (s : State) : (passBoundary s).csr = s.csr := rfl
@[simp] theorem passBoundary_cyc (s : State) : (passBoundary s).cyc = s.cyc := rfl
@[simp] theorem passBoundary_iret (s : State) : (passBoundary s).iret = s.iret := rfl
@[simp] theorem passBoundary_hpm3 (s : State) : (passBoundary s).hpm3 = s.hpm3 := rfl
@[simp] theorem passBoundary_hpm4 (s : State) : (passBoundary s).hpm4 = s.hpm4 := rfl
@[simp] theorem passBoundary_retPc (s : State) : (passBoundary s).retPc = s.retPc := rfl
@[simp] theorem passBoundary_inHandler (s : State) : (passBoundary s).inHandler = s.inHandler := rfl
@[simp] theorem passBoundary_mem (s : State) : (passBoundary s).mem = s.mem := rfl
@[simp] theorem passBoundary_params (s : State) : (passBoundary s).params = s.params := rfl
@[simp] theorem passBoundary_inputs (s : State) : (passBoundary s).inputs = s.inputs.tail := rfl
@[simp] theorem passBoundary_boundary (s : State) : (passBoundary s).boundary = s.boundary + 1 := rfl

/-- Answering a request is a change of `inputs` alone. -/
theorem answerInterrupt_eq (s : State) :
    answerInterrupt s = { s with inputs := (answerInterrupt s).inputs } := by
  cases s with
  | mk regs pc csr cyc iret hpm3 hpm4 retPc inHandler mem params inputs boundary =>
    cases inputs <;> rfl

@[simp] theorem answerInterrupt_regs (s : State) : (answerInterrupt s).regs = s.regs := by
  rw [answerInterrupt_eq]
@[simp] theorem answerInterrupt_pc (s : State) : (answerInterrupt s).pc = s.pc := by
  rw [answerInterrupt_eq]
@[simp] theorem answerInterrupt_csr (s : State) : (answerInterrupt s).csr = s.csr := by
  rw [answerInterrupt_eq]
@[simp] theorem answerInterrupt_cyc (s : State) : (answerInterrupt s).cyc = s.cyc := by
  rw [answerInterrupt_eq]
@[simp] theorem answerInterrupt_iret (s : State) : (answerInterrupt s).iret = s.iret := by
  rw [answerInterrupt_eq]
@[simp] theorem answerInterrupt_hpm3 (s : State) : (answerInterrupt s).hpm3 = s.hpm3 := by
  rw [answerInterrupt_eq]
@[simp] theorem answerInterrupt_hpm4 (s : State) : (answerInterrupt s).hpm4 = s.hpm4 := by
  rw [answerInterrupt_eq]
@[simp] theorem answerInterrupt_retPc (s : State) : (answerInterrupt s).retPc = s.retPc := by
  rw [answerInterrupt_eq]
@[simp] theorem answerInterrupt_inHandler (s : State) :
    (answerInterrupt s).inHandler = s.inHandler := by rw [answerInterrupt_eq]
@[simp] theorem answerInterrupt_mem (s : State) : (answerInterrupt s).mem = s.mem := by
  rw [answerInterrupt_eq]
@[simp] theorem answerInterrupt_params (s : State) : (answerInterrupt s).params = s.params := by
  rw [answerInterrupt_eq]
@[simp] theorem answerInterrupt_boundary (s : State) :
    (answerInterrupt s).boundary = s.boundary := by rw [answerInterrupt_eq]

@[simp] theorem applyBoundary_regs (b : Boundary) (s : State) : (applyBoundary b s).regs = s.regs := rfl
@[simp] theorem applyBoundary_pc (b : Boundary) (s : State) : (applyBoundary b s).pc = s.pc := rfl
@[simp] theorem applyBoundary_csr (b : Boundary) (s : State) :
    (applyBoundary b s).csr = statusFeed s.params.coreKind b s.csr := rfl
@[simp] theorem applyBoundary_cyc (b : Boundary) (s : State) :
    (applyBoundary b s).cyc = countUp s.cyc b.cycTicks := rfl
@[simp] theorem applyBoundary_iret (b : Boundary) (s : State) :
    (applyBoundary b s).iret = countUp s.iret b.iretTicks := rfl
@[simp] theorem applyBoundary_hpm3 (b : Boundary) (s : State) :
    (applyBoundary b s).hpm3 = hpmAfter b s.boundary s.csr .three s.hpm3 := rfl
@[simp] theorem applyBoundary_hpm4 (b : Boundary) (s : State) :
    (applyBoundary b s).hpm4 = hpmAfter b s.boundary s.csr .four s.hpm4 := rfl
@[simp] theorem applyBoundary_retPc (b : Boundary) (s : State) : (applyBoundary b s).retPc = s.retPc := rfl
@[simp] theorem applyBoundary_inHandler (b : Boundary) (s : State) :
    (applyBoundary b s).inHandler = s.inHandler := rfl
@[simp] theorem applyBoundary_mem (b : Boundary) (s : State) : (applyBoundary b s).mem = s.mem := rfl
@[simp] theorem applyBoundary_params (b : Boundary) (s : State) :
    (applyBoundary b s).params = s.params := rfl
@[simp] theorem applyBoundary_inputs (b : Boundary) (s : State) :
    (applyBoundary b s).inputs = s.inputs := rfl
@[simp] theorem applyBoundary_boundary (b : Boundary) (s : State) :
    (applyBoundary b s).boundary = s.boundary := rfl

end Sys2Proof.Machine
end

