-- ==== Sys2Proof/Laws/Csr.lean ====
section
/-! SUPPORT. Registers and CSR storage: what a write changes and what it leaves, and everything a CSR
instruction can do. -/

namespace Sys2Proof.Machine

/-! ## Registers -/

@[simp] theorem readReg_zero (s : State) : readReg s 0 = 0#32 := rfl

@[simp] theorem writeReg_zero (v : Word) (s : State) : writeReg 0 v s = s := rfl

/-- A register other than `x0` reads what was written. -/
theorem readReg_writeReg_same {r : Reg} (hr : r ≠ 0) (v : Word) (s : State) :
    readReg (writeReg r v s) r = v := by
  simp [readReg, writeReg, hr]

/-- A write leaves every other register alone. -/
theorem readReg_writeReg_other {r q : Reg} (h : q ≠ r) (v : Word) (s : State) :
    readReg (writeReg r v s) q = readReg s q := by
  unfold readReg writeReg
  split
  · rfl
  · split
    · rfl
    · rename_i hq hr
      have : r.val - 1 ≠ q.val - 1 := by
        have h₁ : q.val ≠ r.val := fun e => h (Fin.ext e)
        have h₂ : q.val ≠ 0 := fun e => hq (Fin.ext e)
        have h₃ : r.val ≠ 0 := fun e => hr (Fin.ext e)
        omega
      simp [this]

/-- Registers depend on `regs` alone. -/
theorem readReg_congr {s t : State} (h : t.regs = s.regs) (r : Reg) : readReg t r = readReg s r := by
  simp [readReg, h]

/-! ## Counter halves -/

@[simp] theorem lowHalf_setLowHalf (c : BitVec 64) (v : Word) : lowHalf (setLowHalf c v) = v :=
  BitVec.extractLsb'_append_eq_right
@[simp] theorem highHalf_setLowHalf (c : BitVec 64) (v : Word) :
    highHalf (setLowHalf c v) = highHalf c := BitVec.extractLsb'_append_eq_left
@[simp] theorem lowHalf_setHighHalf (c : BitVec 64) (v : Word) :
    lowHalf (setHighHalf c v) = lowHalf c := BitVec.extractLsb'_append_eq_right
@[simp] theorem highHalf_setHighHalf (c : BitVec 64) (v : Word) : highHalf (setHighHalf c v) = v :=
  BitVec.extractLsb'_append_eq_left

/-- A counter is its two halves. -/
theorem halves_append (c : BitVec 64) : highHalf c ++ lowHalf c = c := by
  unfold highHalf lowHalf
  apply BitVec.eq_of_toNat_eq
  simp only [BitVec.toNat_append, BitVec.extractLsb'_toNat, Nat.shiftRight_zero]
  have := c.isLt
  rw [Nat.shiftLeft_eq, Nat.mul_comm, ← Nat.two_pow_add_eq_or_of_lt (by omega), Nat.shiftRight_eq_div_pow]
  omega

/-- Equal halves, equal counters. -/
theorem halves_ext {c d : BitVec 64} (hl : lowHalf c = lowHalf d) (hh : highHalf c = highHalf d) :
    c = d := by
  rw [← halves_append c, ← halves_append d, hl, hh]

@[simp] theorem setLowHalf_setLowHalf (c : BitVec 64) (u v : Word) :
    setLowHalf (setLowHalf c u) v = setLowHalf c v := halves_ext (by simp) (by simp)
@[simp] theorem setHighHalf_setHighHalf (c : BitVec 64) (u v : Word) :
    setHighHalf (setHighHalf c u) v = setHighHalf c v := halves_ext (by simp) (by simp)

/-! ## Storage -/

/-- The fields a store write leaves alone. -/
theorem writeStore_frame (r : CsrStore) (v : Word) (s : State) :
    (writeStore r v s).regs = s.regs ∧ (writeStore r v s).pc = s.pc ∧ (writeStore r v s).retPc = s.retPc ∧
      (writeStore r v s).inHandler = s.inHandler ∧ (writeStore r v s).mem = s.mem ∧
      (writeStore r v s).params = s.params ∧ (writeStore r v s).inputs = s.inputs ∧
      (writeStore r v s).boundary = s.boundary := by
  cases r with
  | mhpmevent n => cases n <;> exact ⟨rfl, rfl, rfl, rfl, rfl, rfl, rfl, rfl⟩
  | hpmLow n => cases n <;> exact ⟨rfl, rfl, rfl, rfl, rfl, rfl, rfl, rfl⟩
  | hpmHigh n => cases n <;> exact ⟨rfl, rfl, rfl, rfl, rfl, rfl, rfl, rfl⟩
  | _ => exact ⟨rfl, rfl, rfl, rfl, rfl, rfl, rfl, rfl⟩

@[simp] theorem writeStore_regs (r : CsrStore) (v : Word) (s : State) : (writeStore r v s).regs = s.regs :=
  (writeStore_frame r v s).1
@[simp] theorem writeStore_pc (r : CsrStore) (v : Word) (s : State) : (writeStore r v s).pc = s.pc :=
  (writeStore_frame r v s).2.1
@[simp] theorem writeStore_retPc (r : CsrStore) (v : Word) (s : State) :
    (writeStore r v s).retPc = s.retPc := (writeStore_frame r v s).2.2.1
@[simp] theorem writeStore_inHandler (r : CsrStore) (v : Word) (s : State) :
    (writeStore r v s).inHandler = s.inHandler := (writeStore_frame r v s).2.2.2.1
@[simp] theorem writeStore_mem (r : CsrStore) (v : Word) (s : State) : (writeStore r v s).mem = s.mem :=
  (writeStore_frame r v s).2.2.2.2.1
@[simp] theorem writeStore_params (r : CsrStore) (v : Word) (s : State) :
    (writeStore r v s).params = s.params := (writeStore_frame r v s).2.2.2.2.2.1
@[simp] theorem writeStore_inputs (r : CsrStore) (v : Word) (s : State) :
    (writeStore r v s).inputs = s.inputs := (writeStore_frame r v s).2.2.2.2.2.2.1
@[simp] theorem writeStore_boundary (r : CsrStore) (v : Word) (s : State) :
    (writeStore r v s).boundary = s.boundary := (writeStore_frame r v s).2.2.2.2.2.2.2

/-- A store write keeps bit 64 of both HPM counters (R68; D17). -/
@[simp] theorem writeStore_bit64 (r : CsrStore) (v : Word) (s : State) (n : HpmId) :
    (hpm n (writeStore r v s)).bit64 = (hpm n s).bit64 := by
  cases r with
  | mhpmevent m => cases m <;> cases n <;> rfl
  | hpmLow m => cases m <;> cases n <;> rfl
  | hpmHigh m => cases m <;> cases n <;> rfl
  | _ => cases n <;> rfl

/-- A read after a write to the same store gives the value written. -/
@[simp] theorem readStore_writeStore_same (r : CsrStore) (v : Word) (s : State) :
    readStore r (writeStore r v s) = v := by
  cases r with
  | mhpmevent n => cases n <;> rfl
  | _ => simp [readStore, writeStore]

/-- A write leaves every other store alone (R27: no other two addresses share storage). -/
theorem readStore_writeStore_other {r q : CsrStore} (h : q ≠ r) (v : Word) (s : State) :
    readStore q (writeStore r v s) = readStore q s := by
  cases r with
  | mhpmevent n => cases q <;> cases n <;> first | rfl | (rename_i m; cases m <;> first | rfl | exact absurd rfl h)
  | hpmLow n =>
    cases q with
    | hpmLow m => simp [readStore, writeStore, hpm_setHpm_other (fun e => h (congrArg _ e))]
    | hpmHigh m => cases m <;> cases n <;> simp [readStore, writeStore, hpm, setHpm]
    | mhpmevent m => cases m <;> cases n <;> rfl
    | _ => cases n <;> rfl
  | hpmHigh n =>
    cases q with
    | hpmHigh m => simp [readStore, writeStore, hpm_setHpm_other (fun e => h (congrArg _ e))]
    | hpmLow m => cases m <;> cases n <;> simp [readStore, writeStore, hpm, setHpm]
    | mhpmevent m => cases m <;> cases n <;> rfl
    | _ => cases n <;> rfl
  | ttCfgSstatus i =>
    cases q with
    | ttCfgSstatus j =>
      have : i.val ≠ j.val := fun e => h (congrArg _ (Fin.ext e.symm))
      simp [readStore, writeStore, this]
    | mhpmevent m => cases m <;> rfl
    | hpmLow m => cases m <;> rfl
    | hpmHigh m => cases m <;> rfl
    | _ => rfl
  | _ =>
    cases q with
    | mhpmevent m => cases m <;> rfl
    | hpmLow m => cases m <;> rfl
    | hpmHigh m => cases m <;> rfl
    | _ => first | rfl | exact absurd rfl h | simp [readStore, writeStore]

/-! ## The other updates and the stores -/

/-- Stores depend on the CSR file and the four counters alone. -/
theorem readStore_congr {s t : State} (hc : t.csr = s.csr) (hy : t.cyc = s.cyc) (hi : t.iret = s.iret)
    (h₃ : t.hpm3.low = s.hpm3.low) (h₄ : t.hpm4.low = s.hpm4.low) (r : CsrStore) :
    readStore r t = readStore r s := by
  cases r with
  | mhpmevent n => cases n <;> simp [readStore, hc]
  | hpmLow n => cases n <;> simp [readStore, hpm, h₃, h₄]
  | hpmHigh n => cases n <;> simp [readStore, hpm, h₃, h₄]
  | _ => simp [readStore, hc, hy, hi]

@[simp] theorem readStore_writeReg (r : CsrStore) (q : Reg) (v : Word) (s : State) :
    readStore r (writeReg q v s) = readStore r s :=
  readStore_congr (by simp) (by simp) (by simp) (by simp) (by simp) r
@[simp] theorem readStore_advancePc (r : CsrStore) (s : State) :
    readStore r (advancePc s) = readStore r s := readStore_congr rfl rfl rfl rfl rfl r
@[simp] theorem readReg_writeStore (q : Reg) (r : CsrStore) (v : Word) (s : State) :
    readReg (writeStore r v s) q = readReg s q := readReg_congr (by simp) q
@[simp] theorem readReg_advancePc (q : Reg) (s : State) : readReg (advancePc s) q = readReg s q := rfl

end Sys2Proof.Machine
end

