-- ==== Sys2Proof/Laws/CsrOp.lean ====
section
/-! SUPPORT. Everything a CSR access can do: its read side effect, its write, and when it completes. -/

namespace Sys2Proof.Machine

/-! ## `clearBit64` -/

/-- Clearing bit 64 leaves every field but the HPM counters alone. -/
theorem clearBit64_frame (r : CsrStore) (s : State) :
    (clearBit64 r s).regs = s.regs ∧ (clearBit64 r s).pc = s.pc ∧ (clearBit64 r s).csr = s.csr ∧
      (clearBit64 r s).retPc = s.retPc ∧ (clearBit64 r s).inHandler = s.inHandler ∧
      (clearBit64 r s).mem = s.mem ∧ (clearBit64 r s).params = s.params ∧
      (clearBit64 r s).inputs = s.inputs ∧ (clearBit64 r s).boundary = s.boundary := by
  cases r <;> simp [clearBit64]

/-- Clearing bit 64 changes no store: no CSR address reads it (R68). -/
@[simp] theorem readStore_clearBit64 (q r : CsrStore) (s : State) :
    readStore q (clearBit64 r s) = readStore q s := by
  apply readStore_congr
  · exact (clearBit64_frame r s).2.2.1
  all_goals cases r with
    | hpmLow n => cases n <;> rfl
    | hpmHigh n => cases n <;> rfl
    | _ => rfl

/-! ## The read side effect (R142) -/

/-- The read side effect happens: the home is an HPM half and `PmcClrOnRd` is set. -/
def clears (home : CsrHome) (s : State) : Bool := home.isHpmHalf && Cfg0.pmcClrOnRd s.csr.cfg0

theorem readEffect_of_not_clears {home : CsrHome} {s : State} (h : clears home s = false) :
    readEffect home s = s := by
  cases home with
  | constant v => rfl
  | storage r => simp only [clears, CsrHome.isHpmHalf] at h; simp [readEffect, h]

theorem readEffect_of_clears {r : CsrStore} {s : State} (h : clears (.storage r) s = true) :
    readEffect (.storage r) s = clearBit64 r (writeStore r 0#32 s) := by
  simp only [clears, CsrHome.isHpmHalf] at h; simp [readEffect, h]

/-- The read side effect leaves every field but the CSR file and the counters alone. -/
theorem readEffect_frame (home : CsrHome) (s : State) :
    (readEffect home s).regs = s.regs ∧ (readEffect home s).pc = s.pc ∧
      (readEffect home s).retPc = s.retPc ∧ (readEffect home s).inHandler = s.inHandler ∧
      (readEffect home s).mem = s.mem ∧ (readEffect home s).params = s.params ∧
      (readEffect home s).inputs = s.inputs ∧ (readEffect home s).boundary = s.boundary := by
  cases home with
  | constant v => exact ⟨rfl, rfl, rfl, rfl, rfl, rfl, rfl, rfl⟩
  | storage r =>
    have h := clearBit64_frame r (writeStore r 0#32 s)
    simp only [readEffect]
    split
    · simp only [h, writeStore_regs, writeStore_pc, writeStore_retPc, writeStore_inHandler, writeStore_mem,
        writeStore_params, writeStore_inputs, writeStore_boundary, and_self]
    · exact ⟨rfl, rfl, rfl, rfl, rfl, rfl, rfl, rfl⟩

/-- The read side effect leaves every other store alone. -/
theorem readStore_readEffect_other {r q : CsrStore} (h : q ≠ r) (s : State) :
    readStore q (readEffect (.storage r) s) = readStore q s := by
  simp only [readEffect]
  split
  · rw [readStore_clearBit64, readStore_writeStore_other h]
  · rfl

/-! ## `CsrWrite` (R143) -/

/-- The value a masked write leaves (R143). -/
def masked (p : Params) (r : CsrStore) (old v : Word) : Word :=
  (old &&& ~~~(wmask p r)) ||| (v &&& wmask p r)

theorem csrWrite_storage (r : CsrStore) (v : Word) (s : State) :
    csrWrite (.storage r) v s = writeStore r (masked s.params r (readStore r s) v) s := rfl

/-- Where the mask is all ones the write stores the value whole. -/
theorem masked_allBits {p : Params} {r : CsrStore} (h : wmask p r = allBits) (old v : Word) :
    masked p r old v = v := by
  unfold masked
  rw [h, allBits]
  simp only [show (0xffffffff#32 : Word) = BitVec.allOnes 32 from rfl, BitVec.not_allOnes, BitVec.and_zero,
    BitVec.and_allOnes, BitVec.zero_or]

theorem csrWrite_frame (home : CsrHome) (v : Word) (s : State) :
    (csrWrite home v s).regs = s.regs ∧ (csrWrite home v s).pc = s.pc ∧
      (csrWrite home v s).retPc = s.retPc ∧ (csrWrite home v s).inHandler = s.inHandler ∧
      (csrWrite home v s).mem = s.mem ∧ (csrWrite home v s).params = s.params ∧
      (csrWrite home v s).inputs = s.inputs ∧ (csrWrite home v s).boundary = s.boundary ∧
      ∀ n, (hpm n (csrWrite home v s)).bit64 = (hpm n s).bit64 := by
  cases home with
  | constant w => exact ⟨rfl, rfl, rfl, rfl, rfl, rfl, rfl, rfl, fun _ => rfl⟩
  | storage r => simp [csrWrite_storage]

/-! ## The effect (R152, steps 5 to 9) -/

/-- The state between the CSR access and the register write. -/
def afterAccess (kind : CsrKind) (home : CsrHome) (src : Word) (reads writes : Bool) (s : State) : State :=
  let t := if reads then readValue home s else 0#32
  let s₁ := if reads then readEffect home s else s
  if writes then csrWrite home (kind.combine t src) s₁ else s₁

theorem csrEffect_eq (kind : CsrKind) (rd : Reg) (home : CsrHome) (src : Word) (reads writes : Bool) (s : State) :
    csrEffect kind rd home src reads writes s =
      advancePc (if reads then writeReg rd (readValue home s) (afterAccess kind home src reads writes s)
        else afterAccess kind home src reads writes s) := by
  cases reads <;> cases writes <;> rfl

/-- An access leaves every field but the CSR file and the counters alone. -/
theorem afterAccess_frame (kind : CsrKind) (home : CsrHome) (src : Word) (reads writes : Bool) (s : State) :
    (afterAccess kind home src reads writes s).regs = s.regs ∧
      (afterAccess kind home src reads writes s).pc = s.pc ∧
      (afterAccess kind home src reads writes s).retPc = s.retPc ∧
      (afterAccess kind home src reads writes s).inHandler = s.inHandler ∧
      (afterAccess kind home src reads writes s).mem = s.mem ∧
      (afterAccess kind home src reads writes s).params = s.params ∧
      (afterAccess kind home src reads writes s).inputs = s.inputs ∧
      (afterAccess kind home src reads writes s).boundary = s.boundary := by
  have hw := fun v s => csrWrite_frame home v s
  have hr := readEffect_frame home s
  cases reads <;> cases writes <;> simp [afterAccess, hw, hr]

/-- An access changes no store but its own. -/
theorem readStore_afterAccess_other {r q : CsrStore} (h : q ≠ r) (kind : CsrKind) (src : Word)
    (reads writes : Bool) (s : State) :
    readStore q (afterAccess kind (.storage r) src reads writes s) = readStore q s := by
  cases reads <;> cases writes <;>
    simp [afterAccess, csrWrite_storage, readStore_writeStore_other h, readStore_readEffect_other h]

/-- An access to a constant CSR changes nothing (R144). -/
theorem afterAccess_constant (kind : CsrKind) (v src : Word) (reads writes : Bool) (s : State) :
    afterAccess kind (.constant v) src reads writes s = s := by
  cases reads <;> cases writes <;> rfl

/-- Everything the effect leaves alone but registers, stores and bit 64. -/
theorem csrEffect_frame (kind : CsrKind) (rd : Reg) (home : CsrHome) (src : Word) (reads writes : Bool) (s : State) :
    (csrEffect kind rd home src reads writes s).pc = s.pc + 4#32 ∧
      (csrEffect kind rd home src reads writes s).retPc = s.retPc ∧
      (csrEffect kind rd home src reads writes s).inHandler = s.inHandler ∧
      (csrEffect kind rd home src reads writes s).mem = s.mem ∧
      (csrEffect kind rd home src reads writes s).params = s.params ∧
      (csrEffect kind rd home src reads writes s).inputs = s.inputs ∧
      (csrEffect kind rd home src reads writes s).boundary = s.boundary := by
  have h := afterAccess_frame kind home src reads writes s
  rw [csrEffect_eq]
  split <;> simp [h]

/-- The effect changes no register but `rd`. -/
theorem readReg_csrEffect_other {rd q : Reg} (hq : q ≠ rd) (kind : CsrKind) (home : CsrHome) (src : Word)
    (reads writes : Bool) (s : State) :
    readReg (csrEffect kind rd home src reads writes s) q = readReg s q := by
  have h := (afterAccess_frame kind home src reads writes s).1
  rw [csrEffect_eq]
  split
  · rw [readReg_advancePc, readReg_writeReg_other hq, readReg_congr h]
  · rw [readReg_advancePc, readReg_congr h]

/-- A reading access leaves the value read in `rd` (R152, step 8). -/
theorem readReg_csrEffect_rd {rd : Reg} (hrd : rd ≠ 0) (kind : CsrKind) (home : CsrHome) (src : Word)
    (writes : Bool) (s : State) :
    readReg (csrEffect kind rd home src true writes s) rd = readValue home s := by
  rw [csrEffect_eq, if_pos rfl, readReg_advancePc, readReg_writeReg_same hrd]

/-- The stores after the effect are those after the access. -/
@[simp] theorem readStore_csrEffect (q : CsrStore) (kind : CsrKind) (rd : Reg) (home : CsrHome) (src : Word)
    (reads writes : Bool) (s : State) :
    readStore q (csrEffect kind rd home src reads writes s) =
      readStore q (afterAccess kind home src reads writes s) := by
  rw [csrEffect_eq]; split <;> simp

@[simp] theorem hpm_csrEffect (n : HpmId) (kind : CsrKind) (rd : Reg) (home : CsrHome) (src : Word)
    (reads writes : Bool) (s : State) :
    hpm n (csrEffect kind rd home src reads writes s) = hpm n (afterAccess kind home src reads writes s) := by
  rw [csrEffect_eq]; split <;> simp

/-! ## When an access completes (R152, steps 1 to 4) -/

/-- An access that no check stops answers its effect. -/
theorem csrOp_completes {kind : CsrKind} {rd : Reg} {a : CsrAddr} {src : CsrSource} {s : State} {home : CsrHome}
    (hhome : csrHome a = some home)
    (hhandler : doWrite kind src = true → s.inHandler = false)
    (hconst : doWrite kind src = true → home.isConstant = true → s.params.roWrite = .ignore)
    (hclear : doRead kind rd = true → doWrite kind src = true → clears home s = false) :
    csrOp kind rd a src s =
      .next (csrEffect kind rd home (src.value s) (doRead kind rd) (doWrite kind src) s) := by
  have h₁ : (doWrite kind src && s.inHandler) = false := by
    cases hw : doWrite kind src
    · rfl
    · simp [hhandler hw]
  have h₂ : (doWrite kind src && home.isConstant && s.params.roWrite == .fault) = false := by
    cases hw : doWrite kind src
    · rfl
    · cases hc : home.isConstant
      · rfl
      · rw [hconst hw hc]; rfl
  have h₃ : (doRead kind rd && doWrite kind src && home.isHpmHalf && Cfg0.pmcClrOnRd s.csr.cfg0) = false := by
    cases hr : doRead kind rd
    · rfl
    · cases hw : doWrite kind src
      · rfl
      · simpa [clears] using hclear hr hw
  simp only [csrOp, hhome, h₁, h₂, h₃, Bool.false_eq_true, if_false]

/-- A completed access answered its effect, and no check stopped it. -/
theorem csrOp_next {kind : CsrKind} {rd : Reg} {a : CsrAddr} {src : CsrSource} {s t : State}
    (h : csrOp kind rd a src s = .next t) :
    ∃ home, csrHome a = some home ∧ (doWrite kind src = true → s.inHandler = false) ∧
      (doRead kind rd = true → doWrite kind src = true → clears home s = false) ∧
      t = csrEffect kind rd home (src.value s) (doRead kind rd) (doWrite kind src) s := by
  unfold csrOp at h
  simp only at h
  split at h
  · cases h
  · rename_i home hhome
    refine ⟨home, hhome, ?_⟩
    split at h
    · cases h
    · rename_i h₁
      split at h
      · cases h
      · split at h
        · cases h
        · rename_i h₃
          cases h
          refine ⟨fun hw => ?_, fun hr hw => ?_, rfl⟩
          · simpa [hw] using h₁
          · simpa [hr, hw, clears] using h₃

end Sys2Proof.Machine
end

