-- ==== Sys2Proof/Laws/Environment.lean ====
section
/-! SUPPORT. The agents of a boundary: what the status feed and the counters change. -/

namespace Sys2Proof.Machine

/-- While `DisTTStatusReg` is set the feed is disabled (R215). -/
theorem statusFeed_frozen {csr : CsrFile} (h : Cfg0.disTTStatusReg csr.cfg0 = true) (k : CoreKind)
    (b : Boundary) : statusFeed k b csr = csr := by simp [statusFeed, h]

/-- The feed is a change of the status CSRs alone. -/
theorem statusFeed_eq (k : CoreKind) (b : Boundary) (csr : CsrFile) :
    statusFeed k b csr = { csr with
      ttCfgQstatus := (statusFeed k b csr).ttCfgQstatus
      ttCfgBstatus := (statusFeed k b csr).ttCfgBstatus
      ttCfgSstatus := (statusFeed k b csr).ttCfgSstatus } := by
  unfold statusFeed; split <;> rfl

@[simp] theorem statusFeed_cfg0 (k : CoreKind) (b : Boundary) (csr : CsrFile) :
    (statusFeed k b csr).cfg0 = csr.cfg0 := by rw [statusFeed_eq]
@[simp] theorem statusFeed_mcountinhibit (k : CoreKind) (b : Boundary) (csr : CsrFile) :
    (statusFeed k b csr).mcountinhibit = csr.mcountinhibit := by rw [statusFeed_eq]
@[simp] theorem statusFeed_intpRestorePc (k : CoreKind) (b : Boundary) (csr : CsrFile) :
    (statusFeed k b csr).intpRestorePc = csr.intpRestorePc := by rw [statusFeed_eq]
@[simp] theorem statusFeed_vl (k : CoreKind) (b : Boundary) (csr : CsrFile) :
    (statusFeed k b csr).vl = csr.vl := by rw [statusFeed_eq]
@[simp] theorem statusFeed_vtype (k : CoreKind) (b : Boundary) (csr : CsrFile) :
    (statusFeed k b csr).vtype = csr.vtype := by rw [statusFeed_eq]

@[simp] theorem eventCount_nil (sel : Word) : eventCount [] sel = 0 := rfl
@[simp] theorem eventCount_cons_same (sel : Word) (k : Nat) (rest : List (Word × Nat)) :
    eventCount ((sel, k) :: rest) sel = k := by simp [eventCount]
theorem eventCount_cons_other {w sel : Word} (h : w ≠ sel) (k : Nat) (rest : List (Word × Nat)) :
    eventCount ((w, k) :: rest) sel = eventCount rest sel := by simp [eventCount, h]

/-- The two halves of a counter are its value. -/
theorem halves_toNat (c : BitVec 64) : (highHalf c).toNat * 2 ^ 32 + (lowHalf c).toNat = c.toNat := by
  have := c.isLt
  simp only [highHalf, lowHalf, BitVec.extractLsb'_toNat, Nat.shiftRight_eq_div_pow]
  omega

@[simp] theorem countUp_toNat (c : BitVec 64) (k : Nat) : (countUp c k).toNat = (c.toNat + k) % 2 ^ 64 := by
  simp [countUp]

end Sys2Proof.Machine
end

