-- ==== Sys2Proof/Laws/Exec.lean ====
section
/-! SUPPORT. What an instruction that completes did, one lemma for all thirteen: every later proof about
`exec` starts here. -/

namespace Sys2Proof.Machine

open Sys2Proof.Safety

/-- The six CSR instructions are the common rule at their kind and source. -/
theorem exec_csrInstr (k : CsrKind) (rd : Reg) (a : CsrAddr) (src : CsrSource) (s : State) :
    exec (csrInstr k rd a src) s = csrOp k rd a src s := by
  cases k <;> cases src <;> rfl

/-- The operands of a `vset` instruction, as `VSET` takes them. -/
structure VsetOperands where
  form : VsetForm
  rd : Reg
  avl : Avl
  req : Word

/-- The operands of the three `vset` instructions in a state (R172 to R174). -/
def vsetOperands (i : Instr) (s : State) : Option VsetOperands :=
  match i with
  | .vsetvli rd rs1 zimm => some ⟨.vli, rd, avlOfReg rd rs1 s, reqOfImm zimm⟩
  | .vsetivli rd uimm zimm => some ⟨.ivli, rd, avlOfImm uimm, reqOfImm zimm⟩
  | .vsetvl rd rs1 rs2 => some ⟨.vl, rd, avlOfReg rd rs1 s, readReg s rs2⟩
  | _ => none

/-- A `vset` instruction is `VsetOp` at its operands. -/
theorem exec_vset {i : Instr} {s : State} {o : VsetOperands} (h : vsetOperands i s = some o) :
    exec i s = vsetOp o.form o.rd o.avl o.req s := by
  cases i <;> simp only [vsetOperands, Option.some.injEq, reduceCtorEq] at h <;> subst h <;> rfl

theorem vsetOp_next {form : VsetForm} {rd : Reg} {avl : Avl} {req : Word} {s t : State}
    (h : vsetOp form rd avl req s = .next t) :
    Cfg0.unknownSetting s.csr.cfg0 = false ∧ s.inHandler = false ∧ t = vsetEffect form rd avl req s := by
  unfold vsetOp at h
  split at h
  · cases h
  · split at h
    · cases h
    · cases h; simp_all

/-! ## The `vset` effect and the interrupt return -/

/-- The fields a `vset` effect leaves alone, and the `pc` it leaves. -/
theorem vsetEffect_frame (form : VsetForm) (rd : Reg) (avl : Avl) (req : Word) (s : State) :
    (vsetEffect form rd avl req s).pc = s.pc + 4#32 ∧ (vsetEffect form rd avl req s).retPc = s.retPc ∧
      (vsetEffect form rd avl req s).inHandler = s.inHandler ∧
      (vsetEffect form rd avl req s).mem = s.mem ∧ (vsetEffect form rd avl req s).params = s.params ∧
      (vsetEffect form rd avl req s).inputs = s.inputs ∧
      (vsetEffect form rd avl req s).boundary = s.boundary := by simp [vsetEffect]

/-- A `vset` effect changes no register but `rd`. -/
theorem readReg_vsetEffect_other {rd q : Reg} (hq : q ≠ rd) (form : VsetForm) (avl : Avl) (req : Word)
    (s : State) : readReg (vsetEffect form rd avl req s) q = readReg s q := by
  rw [vsetEffect, readReg_advancePc, readReg_writeReg_other hq]; rfl

/-- A `vset` effect leaves the new `vl` in `rd` (R171, step 4). -/
theorem readReg_vsetEffect_rd {rd : Reg} (hrd : rd ≠ 0) (form : VsetForm) (avl : Avl) (req : Word) (s : State) :
    readReg (vsetEffect form rd avl req s) rd = (Config.vset form avl req s.csr.vl s.csr.vtype).1 := by
  rw [vsetEffect, readReg_advancePc, readReg_writeReg_same hrd]

/-- A `vset` effect changes no store but `vl` and `vtype`. -/
theorem readStore_vsetEffect_other {r : CsrStore} (hl : r ≠ .vl) (ht : r ≠ .vtype) (form : VsetForm) (rd : Reg)
    (avl : Avl) (req : Word) (s : State) :
    readStore r (vsetEffect form rd avl req s) = readStore r s := by
  simp only [vsetEffect, readStore_advancePc, readStore_writeReg]
  cases r with
  | vl => exact absurd rfl hl
  | vtype => exact absurd rfl ht
  | mhpmevent n => cases n <;> rfl
  | hpmLow n => cases n <;> rfl
  | hpmHigh n => cases n <;> rfl
  | _ => rfl

@[simp] theorem hpm_vsetEffect (n : HpmId) (form : VsetForm) (rd : Reg) (avl : Avl) (req : Word) (s : State) :
    hpm n (vsetEffect form rd avl req s) = hpm n s := by
  simp only [vsetEffect, hpm_advancePc, hpm_writeReg]; cases n <;> rfl

@[simp] theorem readStore_intReturn (r : CsrStore) (s : State) : readStore r (intReturn s) = readStore r s :=
  readStore_congr rfl rfl rfl rfl rfl r

@[simp] theorem readReg_intReturn (r : Reg) (s : State) : readReg (intReturn s) r = readReg s r := rfl

theorem execFence_next {fm : BitVec 4} {p q : FenceSet} {s t : State} (h : execFence fm p q s = .next t) :
    Cfg0.unknownSetting s.csr.cfg0 = false ∧ t = advancePc s := by
  unfold execFence at h
  split at h
  · cases h
  · cases h; simp_all

theorem execMret_next {s t : State} (h : execMret s = .next t) :
    Cfg0.unknownSetting s.csr.cfg0 = false ∧ s.inHandler = true ∧ t = intReturn s := by
  unfold execMret at h
  split at h
  · cases h
  · split at h
    · cases h; simp_all
    · cases h

/-- What an instruction that answers a next state did. -/
theorem exec_next_cases {i : Instr} {s t : State} (h : exec i s = .next t) :
    (∃ k rd a src home, i = csrInstr k rd a src ∧ csrHome a = some home ∧
      (doWrite k src = true → s.inHandler = false) ∧
      (doRead k rd = true → doWrite k src = true → clears home s = false) ∧
      t = csrEffect k rd home (src.value s) (doRead k rd) (doWrite k src) s) ∨
    (∃ o, vsetOperands i s = some o ∧ Cfg0.unknownSetting s.csr.cfg0 = false ∧ s.inHandler = false ∧
      t = vsetEffect o.form o.rd o.avl o.req s) ∨
    (∃ fm p q, i = .fence fm p q ∧ Cfg0.unknownSetting s.csr.cfg0 = false ∧ t = advancePc s) ∨
    (i = .mret ∧ Cfg0.unknownSetting s.csr.cfg0 = false ∧ s.inHandler = true ∧ t = intReturn s) := by
  have csr : ∀ k rd a src, i = csrInstr k rd a src → csrOp k rd a src s = .next t →
      ∃ k rd a src home, i = csrInstr k rd a src ∧ csrHome a = some home ∧
        (doWrite k src = true → s.inHandler = false) ∧
        (doRead k rd = true → doWrite k src = true → clears home s = false) ∧
        t = csrEffect k rd home (src.value s) (doRead k rd) (doWrite k src) s := by
    intro k rd a src hi ht
    obtain ⟨home, hh⟩ := csrOp_next ht
    exact ⟨k, rd, a, src, home, hi, hh⟩
  cases i with
  | csrrw rd a r => exact .inl (csr .write rd a (.reg r) rfl h)
  | csrrs rd a r => exact .inl (csr .set rd a (.reg r) rfl h)
  | csrrc rd a r => exact .inl (csr .clear rd a (.reg r) rfl h)
  | csrrwi rd a u => exact .inl (csr .write rd a (.imm u) rfl h)
  | csrrsi rd a u => exact .inl (csr .set rd a (.imm u) rfl h)
  | csrrci rd a u => exact .inl (csr .clear rd a (.imm u) rfl h)
  | vsetvli rd rs1 z => exact .inr (.inl ⟨_, rfl, vsetOp_next h⟩)
  | vsetivli rd u z => exact .inr (.inl ⟨_, rfl, vsetOp_next h⟩)
  | vsetvl rd rs1 rs2 => exact .inr (.inl ⟨_, rfl, vsetOp_next h⟩)
  | fence fm p q => exact .inr (.inr (.inl ⟨fm, p, q, rfl, execFence_next (fm := fm) (p := p) (q := q) h⟩))
  | ecall => cases h
  | ebreak => cases h
  | mret => exact .inr (.inr (.inr ⟨rfl, execMret_next h⟩))

end Sys2Proof.Machine
end

