-- ==== Sys2Proof/Laws/Memory.lean ====
section
/-! SUPPORT. Memory: read after write, and every operation keeps the canonical form. -/

namespace Sys2Proof.Machine

@[simp] theorem Memory.read_nil (a : Nat) : Memory.read [] a = none := rfl

/-- A read after a write to the same address gives the byte written. -/
@[simp] theorem Memory.read_write_same (m : Memory) (a : Nat) (b : Byte) :
    (Memory.write m a b).read a = some b := by
  induction m with
  | nil => simp [Memory.write, Memory.read]
  | cons c rest ih =>
    obtain ⟨k, v⟩ := c
    simp only [Memory.write]
    split
    · simp [Memory.read]
    · split
      · simp [Memory.read]
      · simp [Memory.read, *]

/-- A write leaves every other address alone. -/
theorem Memory.read_write_other (m : Memory) {a a' : Nat} (b : Byte) (h : a' ≠ a) :
    (Memory.write m a b).read a' = m.read a' := by
  induction m with
  | nil => simp [Memory.write, Memory.read, h]
  | cons c rest ih =>
    obtain ⟨k, v⟩ := c
    simp only [Memory.write]
    split
    · simp [Memory.read, h]
    · split
      next hk => subst hk; simp [Memory.read, h]
      next => simp only [Memory.read, ih]

/-- What a write leaves in the list: the new cell or a cell of before. -/
theorem Memory.mem_write {m : Memory} {a : Nat} {b : Byte} {c : Host.Cell}
    (h : c ∈ Memory.write m a b) : c = (a, b) ∨ c ∈ m := by
  induction m with
  | nil => simpa [Memory.write] using h
  | cons d rest ih =>
    obtain ⟨k, v⟩ := d
    simp only [Memory.write] at h
    split at h
    · simpa using h
    · split at h
      · rcases List.mem_cons.1 h with h | h
        · exact .inl h
        · exact .inr (List.mem_cons_of_mem _ h)
      · rcases List.mem_cons.1 h with h | h
        · exact .inr (h ▸ List.mem_cons_self)
        · exact (ih h).imp_right (List.mem_cons_of_mem _)

/-- A write to a 32-bit address keeps the canonical form. -/
theorem Memory.wf_write {m : Memory} (hm : m.wf) {a : Nat} (ha : a < 2 ^ 32) (b : Byte) :
    (Memory.write m a b).wf := by
  refine ⟨?_, fun c hc => ?_⟩
  · have h := hm.1
    clear hm
    induction m with
    | nil => simp [Memory.write]
    | cons d rest ih =>
      obtain ⟨k, v⟩ := d
      obtain ⟨hk, hrest⟩ := List.pairwise_cons.1 h
      simp only [Memory.write]
      split
      next hlt =>
        refine List.pairwise_cons.2 ⟨fun c hc => ?_, h⟩
        rcases List.mem_cons.1 hc with rfl | hc
        · exact hlt
        · exact Nat.lt_trans hlt (hk c hc)
      next hge =>
        split
        next heq => subst heq; exact List.pairwise_cons.2 ⟨hk, hrest⟩
        next hne =>
          refine List.pairwise_cons.2 ⟨fun c hc => ?_, ih hrest⟩
          rcases Memory.mem_write hc with rfl | hc
          · show k < a
            omega
          · exact hk c hc
  · rcases Memory.mem_write hc with rfl | hc
    · exact ha
    · exact hm.2 c hc

/-- `MemWrite` keeps the canonical form. -/
theorem memWrite_wf {m : Memory} (hm : m.wf) (addr : Word) (bytes : List Byte) :
    (memWrite m addr bytes).wf := by
  induction bytes generalizing m addr with
  | nil => exact hm
  | cons b rest ih => exact ih (Memory.wf_write hm addr.isLt b) _

/-- Loading a word at `pc` keeps the canonical form. -/
theorem storeFetchWord_wf (word : Word) {s : State} (hm : s.mem.wf) :
    (storeFetchWord word s).mem.wf := memWrite_wf hm _ _

/-- The reset memory has the canonical form. -/
theorem reset_mem_wf : State.reset.mem.wf := by decide

/-- A loaded word is what the fetch reads. -/
theorem fetchBytes_storeFetchWord (word : Word) (s : State) :
    fetchBytes (storeFetchWord word s) = some (bytesOfWord word) := by
  have distinct : ∀ {k l : Word}, k ≠ l → (s.pc + k).toNat ≠ (s.pc + l).toNat := fun hne h =>
    hne (by have := BitVec.eq_of_toNat_eq h; bv_omega)
  have e₁ : s.pc + 1#32 + 1#32 = s.pc + 2#32 := by bv_omega
  have e₂ : s.pc + 2#32 + 1#32 = s.pc + 3#32 := by bv_omega
  have e₀ : s.pc.toNat = (s.pc + 0#32).toNat := by simp
  unfold fetchBytes storeFetchWord bytesOfWord
  simp only [memWrite, memRead, e₁, e₂, e₀]
  rw [Memory.read_write_other _ _ (distinct (by decide)), Memory.read_write_other _ _ (distinct (by decide)),
    Memory.read_write_other _ _ (distinct (by decide)), Memory.read_write_same,
    Memory.read_write_other _ _ (distinct (by decide)), Memory.read_write_other _ _ (distinct (by decide)),
    Memory.read_write_same, Memory.read_write_other _ _ (distinct (by decide)), Memory.read_write_same,
    Memory.read_write_same]
  rfl

end Sys2Proof.Machine
end

