-- ==== Sys2Proof/Laws/PerInstr.lean ====
section
/-! SUPPORT. Per instruction: the word an instruction is encoded as matches the row of its own mnemonic in
the opcode map (30_encoding.md R128), whatever its operands. -/

namespace Sys2Proof.Laws

/-- A word in the five fields every format shares (R122 to R125): bits 31:20, 19:15, 14:12, 11:7 and 6:0. -/
def fields (top : BitVec 12) (mid : BitVec 5) (funct3 : BitVec 3) (rd : BitVec 5) (opcode : BitVec 7) : Word :=
  top ++ mid ++ funct3 ++ rd ++ opcode

/-- A mask that keeps `funct3`, the opcode and some bits of the top field. -/
theorem fields_and (top mask : BitVec 12) (mid : BitVec 5) (funct3 : BitVec 3) (rd : BitVec 5)
    (opcode : BitVec 7) :
    fields top mid funct3 rd opcode &&& fields mask 0#5 0b111#3 0#5 0b1111111#7 =
      fields (top &&& mask) 0#5 funct3 0#5 opcode := by
  have h : ∀ {a b c d e : Nat} (t t' : BitVec a) (m m' : BitVec b) (f f' : BitVec c) (r r' : BitVec d)
      (o o' : BitVec e), (t ++ m ++ f ++ r ++ o) &&& (t' ++ m' ++ f' ++ r' ++ o') =
        (t &&& t') ++ (m &&& m') ++ (f &&& f') ++ (r &&& r') ++ (o &&& o') := by
    intros; simp only [BitVec.and_append]
  have e₃ : funct3 &&& 0b111#3 = funct3 := BitVec.and_allOnes
  have e₇ : opcode &&& 0b1111111#7 = opcode := BitVec.and_allOnes
  refine (h top mask mid 0#5 funct3 0b111#3 rd 0#5 opcode 0b1111111#7).trans ?_
  rw [e₃, e₇, BitVec.and_zero, BitVec.and_zero]
  rfl

end Sys2Proof.Laws

namespace Sys2Proof.Laws.EncodesItsRow

/-- The instruction's word matches each row of its mnemonic, of which there is one. -/
def Statement (i : Instr) : Prop :=
  ∀ row ∈ opcodeMap, row.mnemonic = i.mnemonic → encodeWord i &&& row.mask = row.pattern

/-- From the one row to `Statement`. -/
theorem of_row {i : Instr} (row : OpcodeRow) (hrow : row ∈ opcodeMap) (hm : row.mnemonic = i.mnemonic)
    (h : encodeWord i &&& row.mask = row.pattern) : Statement i := fun q hq hmq => by
  have unique : ∀ p ∈ opcodeMap, ∀ q ∈ opcodeMap, p.mnemonic = q.mnemonic → p = q := by decide
  rw [unique q hq row hrow (hmq.trans hm.symm)]
  exact h

theorem csrrw (rd : Reg) (a : CsrAddr) (rs1 : Reg) : Statement (.csrrw rd a rs1) :=
  of_row ⟨.csrrw, 0x0000707f#32, 0x00001073#32⟩ (by decide) rfl
    ((fields_and a 0#12 (fieldOfReg rs1) 0b001#3 (fieldOfReg rd) 0b1110011#7).trans (by rw [BitVec.and_zero]; rfl))

theorem csrrs (rd : Reg) (a : CsrAddr) (rs1 : Reg) : Statement (.csrrs rd a rs1) :=
  of_row ⟨.csrrs, 0x0000707f#32, 0x00002073#32⟩ (by decide) rfl
    ((fields_and a 0#12 (fieldOfReg rs1) 0b010#3 (fieldOfReg rd) 0b1110011#7).trans (by rw [BitVec.and_zero]; rfl))

theorem csrrc (rd : Reg) (a : CsrAddr) (rs1 : Reg) : Statement (.csrrc rd a rs1) :=
  of_row ⟨.csrrc, 0x0000707f#32, 0x00003073#32⟩ (by decide) rfl
    ((fields_and a 0#12 (fieldOfReg rs1) 0b011#3 (fieldOfReg rd) 0b1110011#7).trans (by rw [BitVec.and_zero]; rfl))

theorem csrrwi (rd : Reg) (a : CsrAddr) (u : BitVec 5) : Statement (.csrrwi rd a u) :=
  of_row ⟨.csrrwi, 0x0000707f#32, 0x00005073#32⟩ (by decide) rfl
    ((fields_and a 0#12 u 0b101#3 (fieldOfReg rd) 0b1110011#7).trans (by rw [BitVec.and_zero]; rfl))

theorem csrrsi (rd : Reg) (a : CsrAddr) (u : BitVec 5) : Statement (.csrrsi rd a u) :=
  of_row ⟨.csrrsi, 0x0000707f#32, 0x00006073#32⟩ (by decide) rfl
    ((fields_and a 0#12 u 0b110#3 (fieldOfReg rd) 0b1110011#7).trans (by rw [BitVec.and_zero]; rfl))

theorem csrrci (rd : Reg) (a : CsrAddr) (u : BitVec 5) : Statement (.csrrci rd a u) :=
  of_row ⟨.csrrci, 0x0000707f#32, 0x00007073#32⟩ (by decide) rfl
    ((fields_and a 0#12 u 0b111#3 (fieldOfReg rd) 0b1110011#7).trans (by rw [BitVec.and_zero]; rfl))

theorem vsetvli (rd rs1 : Reg) (z : BitVec 11) : Statement (.vsetvli rd rs1 z) := by
  refine of_row ⟨.vsetvli, 0x8000707f#32, 0x00007057#32⟩ (by decide) rfl
    ((fields_and (0b0#1 ++ z) (0b1#1 ++ 0#11) (fieldOfReg rs1) 0b111#3 (fieldOfReg rd) 0b1010111#7).trans ?_)
  rw [show (0b0#1 ++ z : BitVec 12) &&& (0b1#1 ++ 0#11) = 0b0#1 ++ 0#11 from
    BitVec.and_append.trans (by rw [BitVec.and_zero]; rfl)]
  rfl

theorem vsetivli (rd : Reg) (u : BitVec 5) (z : BitVec 11) : Statement (.vsetivli rd u z) := by
  refine of_row ⟨.vsetivli, 0xc000707f#32, 0xc0007057#32⟩ (by decide) rfl
    ((fields_and (0b11#2 ++ z.setWidth 10) (0b11#2 ++ 0#10) u 0b111#3 (fieldOfReg rd) 0b1010111#7).trans ?_)
  rw [show (0b11#2 ++ z.setWidth 10 : BitVec 12) &&& (0b11#2 ++ 0#10) = 0b11#2 ++ 0#10 from
    BitVec.and_append.trans (by rw [BitVec.and_zero]; rfl)]
  rfl

theorem vsetvl (rd rs1 rs2 : Reg) : Statement (.vsetvl rd rs1 rs2) := by
  refine of_row ⟨.vsetvl, 0xfe00707f#32, 0x80007057#32⟩ (by decide) rfl
    ((fields_and (0b1000000#7 ++ fieldOfReg rs2) (0b1111111#7 ++ 0#5) (fieldOfReg rs1) 0b111#3 (fieldOfReg rd)
      0b1010111#7).trans ?_)
  rw [show (0b1000000#7 ++ fieldOfReg rs2 : BitVec 12) &&& (0b1111111#7 ++ 0#5) = 0b1000000#7 ++ 0#5 from
    BitVec.and_append.trans (by rw [BitVec.and_zero]; rfl)]
  rfl

theorem fence (fm : BitVec 4) (p q : FenceSet) : Statement (.fence fm p q) :=
  of_row ⟨.fence, 0x0000707f#32, 0x0000000f#32⟩ (by decide) rfl
    ((fields_and (fm ++ fieldOfFenceSet p ++ fieldOfFenceSet q) 0#12 0#5 0b000#3 0#5 0b0001111#7).trans
      (by rw [BitVec.and_zero]; rfl))

theorem ecall : Statement .ecall := of_row ⟨.ecall, 0xffffffff#32, 0x00000073#32⟩ (by decide) rfl rfl

theorem ebreak : Statement .ebreak := of_row ⟨.ebreak, 0xffffffff#32, 0x00100073#32⟩ (by decide) rfl rfl

theorem mret : Statement .mret := of_row ⟨.mret, 0xffffffff#32, 0x30200073#32⟩ (by decide) rfl rfl

end Sys2Proof.Laws.EncodesItsRow
end

