-- ==== Sys2Proof/Laws/Step.lean ====
section
/-! SUPPORT. What a step that answers a next state did. -/

namespace Sys2Proof.Machine

/-- The fetch depends on `pc` and memory alone. -/
theorem fetchInstr_congr {s t : State} (hp : t.pc = s.pc) (hm : t.mem = s.mem) :
    fetchInstr t = fetchInstr s := by
  simp [fetchInstr, fetchBytes, hp, hm]

/-- The agents of a boundary do not change what is fetched. -/
@[simp] theorem fetchInstr_applyBoundary (b : Boundary) (s : State) :
    fetchInstr (applyBoundary b s) = fetchInstr s := fetchInstr_congr rfl rfl

theorem mapNext_next {f : State → State} {r : Result} {t : State} (h : mapNext f r = .next t) :
    ∃ u, r = .next u ∧ t = f u := by
  cases r with
  | next u => cases h; exact ⟨u, rfl, rfl⟩
  | fault _ => cases h
  | refused _ => cases h

theorem interruptStep_next {s t : State} (h : interruptStep s = .next t) :
    Cfg0.unknownSetting s.csr.cfg0 = false ∧ s.inHandler = false ∧ t = answerInterrupt (intEntry s) := by
  unfold interruptStep at h
  split at h
  · cases h
  · split at h
    · cases h
    · cases h; simp_all

theorem instructionStep_next {s t : State} (h : instructionStep s = .next t) :
    ∃ i, fetchInstr s = .ok i ∧ exec i s = .next t := by
  unfold instructionStep at h
  split at h
  · exact ⟨_, ‹_›, h⟩
  · cases h

/-- A step is an interrupt entry, or a boundary and then one instruction. -/
theorem step_next_cases {s t : State} (h : step s = .next t) :
    Cfg0.unsynchronised s.csr.cfg0 = false ∧
    (((currentBoundary s).intPending = true ∧ Cfg0.unknownSetting s.csr.cfg0 = false ∧
        s.inHandler = false ∧ t = answerInterrupt (intEntry s)) ∨
      ((currentBoundary s).intPending = false ∧ ∃ i u, fetchInstr s = .ok i ∧
        exec i (applyBoundary (currentBoundary s) s) = .next u ∧ t = passBoundary u)) := by
  unfold step runStep at h
  split at h
  · cases h
  · rename_i hs
    refine ⟨by simpa using hs, ?_⟩
    split at h
    · rename_i hp
      exact .inl ⟨hp, interruptStep_next h⟩
    · rename_i hp
      obtain ⟨u, hu, rfl⟩ := mapNext_next h
      obtain ⟨i, hi, hx⟩ := instructionStep_next hu
      exact .inr ⟨by simpa using hp, i, u, by simpa using hi, hx, rfl⟩

end Sys2Proof.Machine
end

