-- ==== Sys2Proof/Tests/Slice0.lean ====
section
/-! SUPPORT. The model's own tests: decode vectors and small one-step vectors of 95_test_vectors.md, cited
by their ids, and one witness per statement that has hypotheses. -/

namespace Sys2Proof.Tests

open Sys2Proof Sys2Proof.Machine Sys2Proof.Safety

/-! ## The helper state: every launch value zero, every mask all ones -/

/-- Every open mask all ones. -/
def masks : OpenMasks :=
  { fcsr := allBits, vxsat := allBits, vxrm := allBits, mcountinhibit := allBits, mhpmevent3 := allBits,
    mhpmevent4 := allBits, ttCfgQstatus := allBits, ttCfgBstatus := allBits,
    ttCfgSstatus := Vector.replicate 8 allBits, intpRestorePc := allBits, vl := allBits, vtype := allBits,
    vlenb := allBits }

/-- A core of a kind, with `RO_WRITE` as given and `INT_VECTOR = 0x2000` (the premise of P6). -/
def params (k : CoreKind) (ro : RoWrite) : Params :=
  { coreKind := k, roWrite := ro, masks := masks, intVectorWord := 0x800#30 }

/-- A boundary at which nothing happens. -/
def calm : Boundary :=
  { intPending := false, cycTicks := 0, iretTicks := 0, hpm3Events := [], hpm4Events := [], qstatus := none,
    bstatus := none, sstatus := Vector.replicate 8 none }

/-- A boundary at which an interrupt is pending. -/
def alarm : Boundary := { calm with intPending := true }

/-- A CSR file of zeros. -/
def zeroCsrs : CsrFile :=
  { fcsr := 0#32, vxsat := 0#32, vxrm := 0#32, mcountinhibit := 0#32, mhpmevent3 := 0#32, mhpmevent4 := 0#32,
    cfg0 := 0#32, pmacfg0 := 0#32, pmacfg1 := 0#32, cfg1 := 0#32, hwaMask := 0#32, hwaCfg := 0#32,
    vgsrc := 0#32, ttCfgQstatus := 0#32, ttCfgBstatus := 0#32, ttCfgSstatus := Vector.replicate 8 0#32,
    intpRestorePc := 0#32, vl := 0#32, vtype := 0#32, vlenb := 0#32 }

/-- A core launched at `pc = 0x1000` with zeros everywhere the source gives no reset value. -/
def core (k : CoreKind) (ro : RoWrite) : State :=
  State.launch
    { regs := Vector.replicate 31 0#32, pc := 0x00001000#32, csr := zeroCsrs, cyc := 0#64, iret := 0#64,
      hpm3 := ⟨false, 0#64⟩, hpm4 := ⟨false, 0#64⟩, retPc := 0#32, mem := [], params := params k ro,
      inputs := [calm, calm, calm, calm] }

/-- The usual core: RISCV NC, `RO_WRITE = ignore`. -/
def s0 : State := core .nc .ignore

/-- The usual core inside a handler that returns to `0x1008`. -/
def handler : State :=
  { s0 with pc := 0x00002000#32, retPc := 0x00001008#32, inHandler := true,
            csr := { s0.csr with intpRestorePc := 0x00001008#32 } }

/-- The usual core with `cfg0` as given. -/
def withCfg0 (c : Word) (s : State) : State := writeStore .cfg0 c s

/-- Decode and execute one word. -/
def run (w : Word) (s : State) : Result :=
  match decodeWord w with
  | .ok i => exec i s
  | .error (.unmodelled w) => .fault (.illegalEncoding w)
  | .error .truncated => .fault (.unwrittenFetch s.pc)

/-- A view of the next state, where there is one. -/
def look {α : Type} (r : Result) (f : State → α) : Option α :=
  match r with
  | .next t => some (f t)
  | .fault _ => none
  | .refused _ => none

/-- The fault, where there is one. -/
def fault? (r : Result) : Option Fault :=
  match r with
  | .next _ => none
  | .fault f => some f
  | .refused _ => none

/-- The refusal, where there is one. -/
def refusal? (r : Result) : Option Refusal :=
  match r with
  | .next _ => none
  | .fault _ => none
  | .refused f => some f

/-! ## WellFormed (R127): the one check, and its boundary -/

theorem test_wellFormed_refuses_wide_zimm : Instr.wellFormed (.vsetivli 5 4#5 0x400#11) = false := by decide
theorem test_wellFormed_admits_ten_bits : Instr.wellFormed (.vsetivli 5 4#5 0x3ff#11) = true := by decide

/-! ## Decode: words written out from the spec's encodings -/

/-- V1: `csr ++ rs1 ++ 001 ++ rd ++ 1110011`, bit by bit. -/
theorem test_decode_csrrw :
    decodeWord 0b01111100001100101001001101110011#32 = .ok (.csrrw 6 0x7c3#12 5) := by decide
/-- V7. -/
theorem test_decode_csrrs :
    decodeWord 0b01111100011000110010001011110011#32 = .ok (.csrrs 5 0x7c6#12 6) := by decide
/-- V9. -/
theorem test_decode_csrrc :
    decodeWord 0b01111100010100110011001011110011#32 = .ok (.csrrc 5 0x7c5#12 6) := by decide
/-- V11. -/
theorem test_decode_csrrwi :
    decodeWord 0b01111100001110101101000001110011#32 = .ok (.csrrwi 0 0x7c3#12 21#5) := by decide
/-- V14. -/
theorem test_decode_csrrsi :
    decodeWord 0b01111100001101000110000001110011#32 = .ok (.csrrsi 0 0x7c3#12 8#5) := by decide
/-- V18: the largest immediate. -/
theorem test_decode_csrrci :
    decodeWord 0b01111100001111111111001011110011#32 = .ok (.csrrci 5 0x7c3#12 31#5) := by decide
/-- V110. -/
theorem test_decode_vsetvli :
    decodeWord 0b00001101000000110111001011010111#32 = .ok (.vsetvli 5 6 0x0d0#11) := by decide
/-- V111. -/
theorem test_decode_vsetivli :
    decodeWord 0b11001101000000100111001011010111#32 = .ok (.vsetivli 5 4#5 0x0d0#11) := by decide
/-- V112. -/
theorem test_decode_vsetvl :
    decodeWord 0b10000000011100110111001011010111#32 = .ok (.vsetvl 5 6 7) := by decide
/-- V113. -/
theorem test_decode_fence :
    decodeWord 0b00001111111100000000000000001111#32 =
      .ok (.fence 0#4 ⟨true, true, true, true⟩ ⟨true, true, true, true⟩) := by decide
/-- V115: `fm = 1000`, `pred = succ = rw`; and the ignored `rs1`, `rd` fields. -/
theorem test_decode_fence_tso :
    decodeWord 0b10000011001111111000111110001111#32 =
      .ok (.fence 8#4 ⟨false, false, true, true⟩ ⟨false, false, true, true⟩) := by decide
/-- V116 to V118, from their bytes. -/
theorem test_decode_fixed_words :
    decode [0x73#8, 0x00#8, 0x00#8, 0x00#8] = .ok (.ecall, []) ∧
    decode [0x73#8, 0x00#8, 0x10#8, 0x00#8] = .ok (.ebreak, []) ∧
    decode [0x73#8, 0x00#8, 0x20#8, 0x30#8] = .ok (.mret, []) := by decide
/-- V119 to V125: words that match no row. -/
theorem test_decode_rejects :
    decodeWord 0x10500073#32 = .error (.unmodelled 0x10500073#32) ∧
    decodeWord 0x10200073#32 = .error (.unmodelled 0x10200073#32) ∧
    decodeWord 0x00004073#32 = .error (.unmodelled 0x00004073#32) ∧
    decodeWord 0x00000013#32 = .error (.unmodelled 0x00000013#32) := by decide
theorem test_decode_rejects_more :
    decodeWord 0x0000100f#32 = .error (.unmodelled 0x0000100f#32) ∧
    decodeWord 0x82007057#32 = .error (.unmodelled 0x82007057#32) ∧
    decodeWord 0x00000000#32 = .error (.unmodelled 0x00000000#32) ∧
    decodeWord 0xffffffff#32 = .error (.unmodelled 0xffffffff#32) := by decide
/-- Fewer than four bytes. -/
theorem test_decode_truncated : decode [0x73#8, 0x00#8, 0x00#8] = .error .truncated := by decide

/-! ## The six CSR instructions (V1 to V18) -/

/-- V2: `rd = rs1` swaps. -/
theorem test_csrrw_swaps :
    look (run 0x7c3292f3#32 (writeReg 5 0xaaaa5555#32 (writeStore .cfg1 0x12345678#32 s0)))
      (fun t => (readReg t 5, t.csr.cfg1, t.pc)) =
      some (0x12345678#32, 0xaaaa5555#32, 0x00001004#32) := by decide
/-- V3: `rd = x0`. -/
theorem test_csrrw_x0 :
    look (run 0x7c329073#32 (writeReg 5 0xffffffff#32 s0)) (fun t => (readReg t 0, t.csr.cfg1)) =
      some (0#32, 0xffffffff#32) := by decide
/-- V7. -/
theorem test_csrrs_sets :
    look (run 0x7c6322f3#32 (writeReg 6 0x0f#32 (writeStore .vgsrc 0xf0#32 s0)))
      (fun t => (readReg t 5, t.csr.vgsrc)) = some (0xf0#32, 0xff#32) := by decide
/-- V8 in a handler: `rs1` is not `x0`, so it is a write attempt although `x7 = 0`. -/
theorem test_csrrs_zero_value_is_a_write :
    fault? (run 0x7c33a2f3#32 handler) = some (.csrWriteInHandler 0x7c3#12) := by decide
/-- V9. -/
theorem test_csrrc_clears :
    look (run 0x7c5332f3#32 (writeReg 6 0x0f#32 (writeStore .hwaCfg 0xff#32 s0)))
      (fun t => (readReg t 5, t.csr.hwaCfg)) = some (0xff#32, 0xf0#32) := by decide
/-- V72. -/
theorem test_csrrc_cfg0 :
    look (run 0x7c05b373#32 (writeReg 11 0x0003e000#32 s0)) (fun t => (readReg t 6, t.csr.cfg0)) =
      some (0x00020000#32, 0#32) := by decide
/-- V11. -/
theorem test_csrrwi_writes :
    look (run 0x7c3ad073#32 (writeStore .cfg1 0xffffffff#32 s0)) (fun t => t.csr.cfg1) =
      some 0x15#32 := by decide
/-- V12: `uimm = 0` still writes. -/
theorem test_csrrwi_zero :
    look (run 0x7c3052f3#32 (writeStore .cfg1 0x15#32 s0)) (fun t => (readReg t 5, t.csr.cfg1)) =
      some (0x15#32, 0#32) := by decide
/-- V14. -/
theorem test_csrrsi_sets :
    look (run 0x7c346073#32 (writeStore .cfg1 0x15#32 s0)) (fun t => t.csr.cfg1) = some 0x1d#32 := by decide
/-- V131: a pure read is legal in a handler. -/
theorem test_csrrsi_pure_read :
    look (run 0x7c3062f3#32 (writeStore .cfg1 0x1d#32 handler)) (fun t => (readReg t 5, t.csr.cfg1)) =
      some (0x1d#32, 0x1d#32) := by decide
/-- V18. -/
theorem test_csrrci_clears :
    look (run 0x7c3ff2f3#32 (writeStore .cfg1 0xffffffff#32 s0)) (fun t => (readReg t 5, t.csr.cfg1)) =
      some (0xffffffff#32, 0xffffffe0#32) := by decide
/-- V17. -/
theorem test_csrrci_pure_read :
    look (run 0x7c3072f3#32 (writeStore .cfg1 0x18#32 s0)) (fun t => (readReg t 5, t.csr.cfg1)) =
      some (0x18#32, 0x18#32) := by decide

/-! ## Constants, unrecognised addresses, handlers (V20 to V37, V130 to V135) -/

/-- V21 to V23. -/
theorem test_constants :
    look (run 0x300023f3#32 s0) (readReg · 7) = some 0x80006600#32 ∧
    look (run 0x301022f3#32 s0) (readReg · 5) = some 0x40201123#32 ∧
    look (run 0xf1402373#32 s0) (readReg · 6) = some 0#32 := by decide
/-- V24, both settings of `RO_WRITE`. -/
theorem test_constant_write :
    look (run 0x300312f3#32 s0) (readReg · 5) = some 0x80006600#32 ∧
    fault? (run 0x300312f3#32 (core .nc .fault)) = some (.readOnlyCsrWrite 0x300#12) := by decide
/-- V31, V32, V37, and V135: step 1 precedes step 2. -/
theorem test_unrecognised :
    fault? (run 0x001022f3#32 s0) = some (.unrecognisedCsr 0x001#12) ∧
    fault? (run 0xc01022f3#32 s0) = some (.unrecognisedCsr 0xc01#12) ∧
    fault? (run 0xbcb022f3#32 s0) = some (.unrecognisedCsr 0xbcb#12) ∧
    fault? (run 0x340022f3#32 handler) = some (.unrecognisedCsr 0x340#12) := by decide
/-- V132, V133; V27: step 2 precedes step 3. -/
theorem test_handler_writes :
    fault? (run 0x7c305073#32 handler) = some (.csrWriteInHandler 0x7c3#12) ∧
    fault? (run 0xbca29073#32 handler) = some (.csrWriteInHandler 0xbca#12) ∧
    fault? (run 0x300312f3#32 { handler with params := params .b .fault }) =
      some (.csrWriteInHandler 0x300#12) := by decide

/-- S1, R36: `SD` = 1, `FS` = `VS` = 3, `MPP` = 0, `MPRV`, `MPIE`, `MIE` clear. -/
theorem test_mstatus_fields :
    (0x80006600#32).getLsbD 31 = true ∧ (0x80006600#32).extractLsb' 13 2 = 3#2 ∧
    (0x80006600#32).extractLsb' 9 2 = 3#2 ∧ (0x80006600#32).extractLsb' 11 2 = 0#2 ∧
    (0x80006600#32) &&& 0x00020088#32 = 0#32 := by decide
/-- S2, R38: `MXL` = 1; the letters A, B, F, I, M, V and no other. -/
theorem test_misa_letters :
    (0x40201123#32).extractLsb' 30 2 = 1#2 ∧
    (List.range 26).filter (0x40201123#32).getLsbD = [0, 1, 5, 8, 12, 21] := by decide

/-! ## Counters (V40 to V62) -/

/-- V40 with no tick: written through `cycle`, seen as `mcycle`. -/
theorem test_cycle_alias :
    look (run 0xc0029073#32 (writeReg 5 100#32 s0)) (fun t => (t.cyc, look (run 0xb0002373#32 t) (readReg · 6))) =
      some (100#64, some 100#32) := by decide
/-- V44. -/
theorem test_cyc_wraps :
    (applyBoundary { calm with cycTicks := 1 } { s0 with cyc := 0xffffffffffffffff#64 }).cyc = 0#64 := by decide
/-- V50, V54. -/
theorem test_hpm_carries :
    hpmEventStep s0.csr .three false ⟨false, 0xffffffffffffffff#64⟩ = ⟨true, 0#64⟩ ∧
    hpmEventStep s0.csr .three false ⟨false, 0x00000000ffffffff#64⟩ = ⟨false, 0x100000000#64⟩ := by decide
/-- V51, V52, V53. -/
theorem test_hpm_stops :
    hpmEventStep (withCfg0 0x80#32 s0).csr .three false ⟨true, 0#64⟩ = ⟨true, 0#64⟩ ∧
    hpmEventStep s0.csr .three false ⟨true, 0#64⟩ = ⟨true, 1#64⟩ ∧
    hpmEventStep (writeStore .mcountinhibit 8#32 s0).csr .three false ⟨false, 9#64⟩ = ⟨false, 9#64⟩ := by decide
/-- A counter counts the events its selector selects (R211). -/
theorem test_hpm_selector :
    (applyBoundary { calm with hpm3Events := [(7#32, 5)] } s0).hpm3 = ⟨false, 0#64⟩ ∧
    (applyBoundary { calm with hpm3Events := [(7#32, 5)] } (writeStore (.mhpmevent .three) 7#32 s0)).hpm3 =
      ⟨false, 5#64⟩ := by decide

/-- `hpm3 = 1:00000002:00000007` with `PmcClrOnRd` set, the start of V55 to V62. -/
def hpmState : State := { withCfg0 0x100#32 s0 with hpm3 := ⟨true, 0x0000000200000007#64⟩ }

/-- V55 (and V134, in a handler), V56. -/
theorem test_read_clears :
    look (run 0xb03022f3#32 { hpmState with inHandler := true }) (fun t => (readReg t 5, t.hpm3)) =
      some (7#32, ⟨false, 0x0000000200000000#64⟩) ∧
    look (run 0xb83023f3#32 hpmState) (fun t => (readReg t 7, t.hpm3)) = some (2#32, ⟨false, 7#64⟩) := by decide
/-- V58 to V61. -/
theorem test_write_under_clear :
    look (run 0xb0331073#32 (writeReg 6 9#32 hpmState)) (fun t => t.hpm3) =
      some ⟨true, 0x0000000200000009#64⟩ ∧
    fault? (run 0xb03312f3#32 hpmState) = some (.clearOnReadWithWrite 0xb03#12) ∧
    fault? (run 0xb03322f3#32 hpmState) = some (.clearOnReadWithWrite 0xb03#12) ∧
    fault? (run 0xb030e073#32 hpmState) = some (.clearOnReadWithWrite 0xb03#12) := by decide

/-! ## `cfg0`, ordering and status (V74 to V96; R109, R179) -/

/-- V74 and V75: the write completes, and the step after it is refused or goes on. -/
theorem test_csr_sync :
    look (run 0x7c02a073#32 (writeReg 5 0x400#32 s0)) (fun t => (t.csr.cfg0, refusal? (step t))) =
      some (0x00020400#32, some .csrSyncDisabled) ∧
    look (run 0x7c02a073#32 (writeReg 5 0x600#32 s0)) (fun t => (t.csr.cfg0, refusal? (step t))) =
      some (0x00020600#32, none) := by decide
/-- V76: stored, and read by a CSR access; anything else is outside the spec. -/
theorem test_unknown_cfg0 :
    look (run 0x7c0022f3#32 (withCfg0 0x00020001#32 s0)) (readReg · 5) = some 0x00020001#32 ∧
    refusal? (run 0x0ff0000f#32 (withCfg0 0x00020001#32 s0)) = some .unknownCfg0Setting := by decide
/-- V77. -/
theorem test_zfhFormat :
    zfhFormat 0xc0020000#32 = .bf16Rtne ∧ zfhFormat 0x40020000#32 = .bf16Rtz ∧
    zfhFormat 0x00020000#32 = .fp16 ∧ zfhFormat 0x80020000#32 = .fp16 := by decide
/-- V82, V84. -/
theorem test_stronglyOrdered :
    stronglyOrdered (writeStore .pmacfg1 1#32 s0) = true ∧
    stronglyOrdered (writeStore .pmacfg0 0xfffffffe#32 (writeStore .pmacfg1 0xfffffffe#32 s0)) = false := by decide
/-- The conditions of R109, each at its boundary, with L1 taken as the addresses below 0x200. -/
theorem test_mayCoalesce :
    let l1 : Word → Bool := fun a => decide (a.toNat < 0x200)
    mayCoalesce l1 0x00020000#32 0x100#32 0x104#32 16 = true ∧
    mayCoalesce l1 0x00020000#32 0x100#32 0x104#32 17 = false ∧
    mayCoalesce l1 0x00020000#32 0x100#32 0x105#32 1 = false ∧
    mayCoalesce l1 0x00020000#32 0x10e#32 0x110#32 1 = false ∧
    mayCoalesce l1 0x00021000#32 0x100#32 0x104#32 1 = false ∧
    mayCoalesce l1 0x00020000#32 0x200#32 0x204#32 1 = false := by decide
/-- V94, V95: frozen, the value written stays. -/
theorem test_frozen_status :
    (applyBoundary { calm with qstatus := some ⟨0#11, true, false, 1#11, 0#7⟩ }
      (withCfg0 0x20000000#32 (writeStore .ttCfgQstatus 0x800#32 s0))).csr.ttCfgQstatus = 0x800#32 := by decide
/-- V90: a hardware-written value on NC (R216), and on RISCV T<sub>i</sub>. -/
theorem test_live_status :
    (applyBoundary { calm with qstatus := some ⟨0#11, true, false, 1#11, 0#7⟩ } s0).csr.ttCfgQstatus =
      0x01002801#32 ∧
    (applyBoundary { calm with qstatus := some ⟨0#11, true, false, 1#11, 0#7⟩ }
      (core (.t 0) .ignore)).csr.ttCfgQstatus = 0x01002800#32 := by decide
/-- V96. -/
theorem test_bstatus_mask :
    maskHas (Bstatus.orMask (0x201#32 <<< 11)) .replay = true ∧
    maskHas (Bstatus.orMask (0x201#32 <<< 11)) .sfpu = true ∧
    maskHas (Bstatus.orMask (0x201#32 <<< 11)) .fpu = false := by decide

/-! ## The other instructions (V110 to V126) and interrupts (P6) -/

/-- V110: `vl` and `rd` take one value, whatever `VSET` answers; V126. -/
theorem test_vsetvli :
    look (exec (.vsetvli 5 6 0x0d0#11) s0) (fun t => (readReg t 5, t.csr.vtype, t.pc)) =
      some ((Config.vset .vli (.register 0#32) 0xd0#32 0#32 0#32).1,
        (Config.vset .vli (.register 0#32) 0xd0#32 0#32 0#32).2, 0x00001004#32) := rfl
theorem test_vset_in_handler :
    fault? (run 0x0d0372d7#32 handler) = some (.csrWriteInHandler 0xc20#12) ∧
    fault? (run 0xcd0272d7#32 handler) = some (.csrWriteInHandler 0xc20#12) ∧
    fault? (run 0x807372d7#32 handler) = some (.csrWriteInHandler 0xc20#12) := by decide
/-- V111. -/
theorem test_vsetivli :
    look (exec (.vsetivli 0 4#5 0x0d0#11) s0) (fun t => (readReg t 0, t.csr.vl)) =
      some (0#32, (Config.vset .ivli (.immediate 4#32) 0xd0#32 0#32 0#32).1) := rfl
/-- R174: with `rs1 = rd = x0` the length is kept. -/
theorem test_vsetvl :
    look (exec (.vsetvl 0 0 7) (writeReg 7 0xd0#32 s0)) (fun t => t.csr.vl) =
      some (Config.vset .vl .keep 0xd0#32 0#32 0#32).1 := rfl
/-- V113, V115. -/
theorem test_fence :
    look (run 0x0ff0000f#32 s0) id = some { s0 with pc := 0x00001004#32 } ∧
    look (run 0x8330000f#32 s0) id = some { s0 with pc := 0x00001004#32 } := ⟨rfl, rfl⟩
/-- V116, V117. -/
theorem test_ecall_ebreak :
    fault? (run 0x00000073#32 s0) = some (.unmodelled .ecall) ∧
    fault? (run 0x00100073#32 s0) = some (.unmodelled .ebreak) := by decide
/-- V118. -/
theorem test_mret :
    look (run 0x30200073#32 handler) (fun t => (t.pc, t.inHandler, t.csr.intpRestorePc)) =
      some (0x00001008#32, false, 0x00001008#32) ∧
    fault? (run 0x30200073#32 s0) = some .mretOutsideHandler := by decide
/-- P6, step 3. -/
theorem test_interrupt_entry :
    look (step { s0 with pc := 0x00001008#32, inputs := [alarm] })
      (fun t => (t.retPc, t.csr.intpRestorePc, t.inHandler, t.pc, t.inputs)) =
      some (0x00001008#32, 0x00001008#32, true, 0x00002000#32, [calm]) := by decide
/-- P6, variant (d). -/
theorem test_nested_interrupt :
    fault? (step { handler with inputs := [alarm] }) = some .nestedInterrupt := by decide
/-- P1, its first step: a loaded word runs next, and the step passes the boundary. -/
theorem test_step_runs_loaded_word :
    look (step (s0.withFetchWord 32 0x301022f3)) (fun t => (readReg t 5, t.pc, t.boundary)) =
      some (0x40201123#32, 0x00001004#32, 1) := by decide
/-- P1, its last row, as the first instruction after reset. -/
theorem test_reset_runs_loaded_word :
    look (step (State.reset.withFetchWord 32 0x7c0022f3)) (fun t => (readReg t 5, t.pc)) =
      some (0x00020000#32, 0x00000004#32) := by decide
/-- The faults of a fetch: V125, a misaligned `pc`, no byte listed. -/
theorem test_fetch_faults :
    fault? (step (s0.withFetchWord 32 0xffffffff)) = some (.illegalEncoding 0xffffffff#32) ∧
    fault? (step { s0 with pc := 0x00001002#32 }) = some (.misalignedFetch 0x00001002#32) ∧
    fault? (step s0) = some (.unwrittenFetch 0x00001000#32) := by decide

/-! ## Witnesses: a state and operands that meet every hypothesis of each statement

Each is named after its statement; a statement with several clauses has one part per clause. -/

theorem witness_DecodeInvertsEncode :
    Instr.wellFormed (.vsetivli 31 31#5 0x3ff#11) = true ∧ Instr.wellFormed (.csrrw 31 0xfff#12 31) = true := by
  decide
theorem witness_RowDecidesInstruction :
    (⟨.vsetvl, 0xfe00707f#32, 0x80007057#32⟩ : OpcodeRow) ∈ opcodeMap ∧
    0x807372d7#32 &&& 0xfe00707f#32 = 0x80007057#32 ∧ decodeWord 0x807372d7#32 = .ok (.vsetvl 5 6 7) ∧
    (Instr.vsetvl 5 6 7).mnemonic = .vsetvl := by decide
theorem witness_RowsDoNotOverlap :
    (⟨.mret, 0xffffffff#32, 0x30200073#32⟩ : OpcodeRow) ∈ opcodeMap ∧
    OpcodeRow.matches ⟨.mret, 0xffffffff#32, 0x30200073#32⟩ 0x30200073#32 = true ∧
    opcodeMap.reverse.Perm opcodeMap ∧ ∀ p ∈ opcodeMap, p.matches 0xffffffff#32 = false :=
  ⟨by decide, by decide, List.reverse_perm _, by decide⟩
theorem witness_EncodeInvertsDecode :
    decodeWord 0x83378f8f#32 = .ok (.fence 8#4 ⟨false, false, true, true⟩ ⟨false, false, true, true⟩) ∧
    decodeWord 0x7c329373#32 = .ok (.csrrw 6 0x7c3#12 5) := by decide
theorem witness_CsrrwExchanges :
    csrHome 0x7c3#12 = some (.storage .cfg1) ∧ s0.inHandler = false ∧ CsrStore.isHpmHalf .cfg1 = false ∧
    csrHome 0xb03#12 = some (.storage (.hpmLow .three)) ∧ Cfg0.pmcClrOnRd s0.csr.cfg0 = false ∧
    Cfg0.pmcClrOnRd hpmState.csr.cfg0 = true ∧ (0 : Reg) = 0 := by decide
theorem witness_CsrrsSetsBits :
    csrHome 0xc82#12 = some (.storage .iretHigh) ∧ s0.inHandler = false ∧ (31 : Reg) ≠ 0 ∧
    CsrStore.isHpmHalf .iretHigh = false := by decide
theorem witness_CsrrcClearsBits :
    csrHome 0xbc9#12 = some (.storage (.ttCfgSstatus 7)) ∧ s0.inHandler = false ∧ (1 : Reg) ≠ 0 ∧
    CsrStore.isHpmHalf (.ttCfgSstatus 7) = false := by decide
theorem witness_CsrrwiWritesImmediate :
    csrHome 0x003#12 = some (.storage .fcsr) ∧ s0.inHandler = false ∧ CsrStore.isHpmHalf .fcsr = false := by
  decide
theorem witness_CsrrsiSetsLowBits :
    csrHome 0x7c0#12 = some (.storage .cfg0) ∧ s0.inHandler = false ∧ 31#5 ≠ 0#5 ∧
    CsrStore.isHpmHalf .cfg0 = false := by decide
theorem witness_CsrrciClearsLowBits :
    csrHome 0xb84#12 = some (.storage (.hpmHigh .four)) ∧ s0.inHandler = false ∧ 1#5 ≠ 0#5 ∧
    Cfg0.pmcClrOnRd s0.csr.cfg0 = false := by decide
theorem witness_PureReadReturnsAndClears :
    (.csrrci 0 0xb84#12 0#5 ∈ pureReads 0 0xb84#12 ∧ csrHome 0xb84#12 = some (.storage (.hpmHigh .four)) ∧
      hpmState.csr.cfg0.getLsbD 8 = true) ∧
    (.csrrs 5 0xb03#12 0 ∈ pureReads 5 0xb03#12 ∧ csrHome 0xb03#12 = some (.storage (.hpmLow .three)) ∧
      s0.csr.cfg0.getLsbD 8 = false) := by decide
theorem witness_PureRead_other_store :
    .csrrs 5 0xb00#12 0 ∈ pureReads 5 0xb00#12 ∧ csrHome 0xb00#12 = some (.storage .cycLow) ∧
    ∀ n, CsrStore.cycLow ≠ .hpmLow n ∧ CsrStore.cycLow ≠ .hpmHigh n :=
  ⟨by decide, by decide, fun _ => ⟨nofun, nofun⟩⟩
theorem witness_PureRead_constant :
    .csrrc 5 0x301#12 0 ∈ pureReads 5 0x301#12 ∧ csrHome 0x301#12 = some (.constant 0x40201123#32) :=
  ⟨by decide, rfl⟩
theorem witness_ConstantCsrsReadTheirConstants :
    .csrrsi 5 0xf14#12 0#5 ∈ pureReads 5 0xf14#12 := by decide
theorem witness_ConstantWriteAttempt :
    s0.inHandler = false ∧ CsrSource.isZeroField (.reg 6) = false ∧ s0.params.roWrite = .ignore ∧
    (core .b .fault).inHandler = false ∧ (core .b .fault).params.roWrite = .fault := by decide
theorem witness_RecognisedAddressesAreThe43 :
    recognised 0x003#12 = true ∧ recognised 0xf14#12 = true ∧ recognised 0x7c7#12 = false := by decide
theorem witness_UnrecognisedAddressStops :
    0x001#12 ∉ sourceCsrAddrs ∧ 0x7c7#12 ∉ sourceCsrAddrs ∧ 0xfff#12 ∉ sourceCsrAddrs := by decide
theorem witness_HandlerCannotWriteCsrs :
    handler.inHandler = true ∧ 0xbca#12 ∈ sourceCsrAddrs ∧ CsrSource.isZeroField (.imm 1#5) = false ∧
    .csrrs 5 0x008#12 0 ∈ pureReads 5 0x008#12 ∧ 0x008#12 ∈ sourceCsrAddrs := by decide
theorem witness_ClearOnReadWithWriteStops :
    csrHome 0xb03#12 = some (.storage (.hpmLow .three)) ∧ hpmState.csr.cfg0.getLsbD 8 = true ∧
    hpmState.inHandler = false ∧ (5 : Reg) ≠ 0 ∧ CsrSource.isZeroField (.imm 31#5) = false := by decide
theorem witness_CsrAccessStopsOnlyByItsChecks :
    0x003#12 ∈ sourceCsrAddrs ∧ 0xf14#12 ∈ sourceCsrAddrs := by decide
theorem witness_ZicntrAddressesAreAliases :
    s0.inHandler = false ∧ (5 : Reg) ≠ 0 ∧ handler.inHandler = true ∧
    CsrKind.set ≠ .write ∧ CsrSource.isZeroField (.reg 0) = true := by decide
theorem witness_FullWidthCsrsKeepEveryBit :
    s0.inHandler = false ∧ (1 : Reg) ≠ 0 ∧ isBOrNc s0.params.coreKind ∧
    isBOrNc (core .b .ignore).params.coreKind := by decide
theorem witness_SourceIsReadBeforeDestination :
    csrHome 0x7c3#12 = some (.storage .cfg1) ∧ s0.inHandler = false ∧ (31 : Reg) ≠ 0 ∧
    CsrStore.isHpmHalf .cfg1 = false ∧ wmask s0.params .cfg1 = 0xffffffff#32 := by decide
theorem witness_UnconsultedCsrsDoNotInterfere :
    ¬ addressesStore .mret .intpRestorePc ∧ ¬ addressesStore (.csrrw 5 0x7c3#12 6) .vlenb :=
  ⟨fun ⟨_, h, _⟩ => (by cases h), fun ⟨_, h, h'⟩ => (by cases h; exact absurd h' (by decide))⟩
theorem witness_ReservedCfg0BitsHaveNoEffect :
    0x02e20060#32 &&& ~~~0x02e00060#32 = s0.csr.cfg0 &&& ~~~0x02e00060#32 ∧
    ∀ i, fetchInstr (s0.withFetchWord 32 0x0ff0000f) = .ok i → ¬ addressesStore i .cfg0 := by
  refine ⟨by decide, fun i h hi => ?_⟩
  have hf : fetchInstr (s0.withFetchWord 32 0x0ff0000f) =
      .ok (.fence 0#4 ⟨true, true, true, true⟩ ⟨true, true, true, true⟩) := rfl
  cases hf.symm.trans h
  obtain ⟨_, h, _⟩ := hi
  cases h
theorem witness_CsrsChangeOnlyByTheirInstructions :
    ∃ t, exec (.csrrwi 0 0x7c3#12 21#5) s0 = .next t ∧ readStore .cfg1 t ≠ readStore .cfg1 s0 :=
  ⟨_, rfl, by decide⟩
theorem witness_RegistersChangeOnlyAtDestination :
    ∃ t, exec (.csrrs 31 0x7c0#12 0) s0 = .next t ∧ readReg t 31 ≠ readReg s0 31 := ⟨_, rfl, by decide⟩
theorem witness_PcAdvancesByFourUnlessMret :
    (∃ t, exec (.csrrs 0 0x7c0#12 0) { s0 with pc := 0xfffffffc#32 } = .next t) ∧
    ∃ t, exec .mret handler = .next t := ⟨⟨_, rfl⟩, ⟨_, rfl⟩⟩
theorem witness_BitsOutsideWmaskAreKept :
    (∃ t, exec (.csrrwi 0 0x003#12 31#5) s0 = .next t) ∧ isVset (.csrrwi 0 0x003#12 31#5) = false :=
  ⟨⟨_, rfl⟩, rfl⟩
theorem witness_Bit64ClearsOnlyByClearingRead :
    ∃ t, exec (.csrrs 0 0xb03#12 0) hpmState = .next t ∧
      (hpm .three t).bit64 ≠ (hpm .three hpmState).bit64 := ⟨_, rfl, by decide⟩
theorem witness_VsetTakesWhatVsetAnswers :
    Cfg0.unknownSetting s0.csr.cfg0 = false ∧ s0.inHandler = false ∧ (31 : Reg) ≠ 0 := by decide
theorem witness_FenceOnlyAdvancesPc : Cfg0.unknownSetting handler.csr.cfg0 = false := by decide
theorem witness_MretReturns :
    handler.inHandler = true ∧ Cfg0.unknownSetting handler.csr.cfg0 = false ∧
    look (exec .mret handler) State.inHandler = some false := by decide
theorem witness_MretOutsideHandlerStops :
    Cfg0.unknownSetting s0.csr.cfg0 = false ∧ s0.inHandler = false := by decide
theorem witness_UnknownCfg0SettingRefuses :
    (withCfg0 0x00000001#32 s0).csr.cfg0 &&& 0x1c080811#32 ≠ 0#32 ∧
    (withCfg0 0x10000000#32 s0).csr.cfg0 &&& 0x1c080811#32 ≠ 0#32 ∧ isVset (.vsetivli 5 4#5 0#11) = true ∧
    (withCfg0 0x08000000#32 s0).csr.cfg0.getLsbD 10 = false ∧
    (currentBoundary { withCfg0 0x08000000#32 s0 with inputs := [alarm] }).intPending = true := by decide

/-- The usual core with an interrupt pending. -/
def interrupted : State := { s0 with inputs := [alarm, calm] }

theorem witness_InterruptEntrySavesPc :
    described interrupted ∧ (currentBoundary interrupted).intPending = true ∧ interrupted.inHandler = false := by
  decide
theorem witness_EntryThenMretComesBack :
    described interrupted ∧ (currentBoundary interrupted).intPending = true ∧ interrupted.inHandler = false := by
  decide
theorem witness_NestedInterruptStops :
    described handler ∧ (currentBoundary { handler with inputs := [alarm] }).intPending = true ∧
    handler.inHandler = true := by decide
theorem witness_ReturnAddressChangesOnlyAtEntry :
    (∃ t, step interrupted = .next t) ∧ (∃ t, step (handler.withFetchWord 32 0x30200073) = .next t) ∧
    ∃ t, step (handler.withFetchWord 32 0x7c3022f3) = .next t := ⟨⟨_, rfl⟩, ⟨_, rfl⟩, ⟨_, rfl⟩⟩
theorem witness_StepRunsDecodedInstruction :
    let s := s0.withFetchWord 32 0x0ff0000f
    Cfg0.unsynchronised s.csr.cfg0 = false ∧ quiet s ∧ aligned4 s.pc = true ∧
    fetchBytes s = some [0x0f#8, 0x00#8, 0xf0#8, 0x0f#8] ∧
    decode [0x0f#8, 0x00#8, 0xf0#8, 0x0f#8] =
      .ok (.fence 0#4 ⟨true, true, true, true⟩ ⟨true, true, true, true⟩, []) :=
  ⟨by decide, by decide, by decide, by decide, by decide⟩
theorem witness_FetchStopsByName :
    Cfg0.unsynchronised s0.csr.cfg0 = false ∧ quiet s0 ∧ aligned4 0x00001001#32 = false ∧
    aligned4 0x00001003#32 = false ∧ aligned4 s0.pc = true ∧ fetchBytes s0 = none ∧
    fetchBytes (s0.withFetchWord 32 0) = some (bytesOfWord 0#32) ∧ ∀ p ∈ opcodeMap, p.matches 0#32 = false :=
  ⟨by decide, by decide, by decide, by decide, by decide, by decide, by decide, by decide⟩
theorem witness_LoadedWordRunsNext :
    Cfg0.unsynchronised interrupted.csr.cfg0 = false ∧ aligned4 interrupted.pc = true ∧
    decodeWord 0x00000073#32 = .ok .ecall := by decide
theorem witness_ResetGivesSourceValues : (31 : Reg) ≠ 0 := by decide
theorem witness_StepKeepsInv :
    Inv (s0.withFetchWord 32 0x7c0022f3) ∧ (∃ t, step (s0.withFetchWord 32 0x7c0022f3) = .next t) ∧
    Inv (handler.withFetchWord 32 0x30200073) ∧
    ∃ t, step (handler.withFetchWord 32 0x30200073) = .next t :=
  ⟨⟨storeFetchWord_wf _ (by decide), by decide, by decide⟩, ⟨_, rfl⟩,
    ⟨storeFetchWord_wf _ (by decide), by decide, fun _ => by decide⟩, ⟨_, rfl⟩⟩
theorem witness_ResetHasInv :
    Memory.wf ([] : Memory) ∧ aligned4 0xfffffffc#32 = true := by decide
theorem witness_StepNeverChangesMemory : ∃ t, step (s0.withFetchWord 32 0x7c3ad073) = .next t := ⟨_, rfl⟩
theorem witness_HpmEventRule :
    (8#32).getLsbD 3 = true ∧ (16#32).getLsbD 4 = true ∧ (0x80#32).getLsbD 7 = true ∧
    s0.csr.mcountinhibit.getLsbD 3 = false ∧ s0.csr.cfg0.getLsbD 7 = false ∧
    (0xfffffffffffffffe#64 : BitVec 64) ≠ 0xffffffffffffffff#64 := by decide
theorem witness_HpmCounterAfterEvents :
    hpmInhibited 8#32 .three = true ∧ hpmInhibited 16#32 .four = true ∧
    hpmInhibited s0.csr.mcountinhibit .three = false ∧ Cfg0.disPmcWrapArnd 0x80#32 = true ∧
    Cfg0.disPmcWrapArnd s0.csr.cfg0 = false ∧
    hpmValue ⟨true, 0xfffffffffffffffe#64⟩ + 1 < 2 ^ 65 ∧
    (∀ e ∈ ([(6#32, 1), (0#32, 2)] : List (Word × Nat)), e.1 ≠ 7#32) := by decide
theorem witness_FrozenStatusIsNotFed :
    (withCfg0 0x20000000#32 s0).csr.cfg0.getLsbD 29 = true ∧ isBOrNc s0.params.coreKind := by decide
theorem witness_LiveStatusFollowsTheFeed :
    s0.csr.cfg0.getLsbD 29 = false ∧ isBOrNc s0.params.coreKind ∧ (core (.t 0) .ignore).params.coreKind = .t 0 ∧
    calm.qstatus = none ∧ calm.bstatus = none ∧
    ({ calm with bstatus := some ⟨1#11, 2#11, 0#10⟩ } : Boundary).bstatus = some ⟨1#11, 2#11, 0#10⟩ := by decide
theorem witness_UnsynchronisedCoreIsRefused :
    (withCfg0 0x400#32 s0).csr.cfg0.getLsbD 10 = true ∧ (withCfg0 0x400#32 s0).csr.cfg0.getLsbD 9 = false ∧
    s0.inHandler = false ∧ (readReg (writeReg 5 0x400#32 s0) 5).getLsbD 10 = true ∧
    (readReg (writeReg 5 0x400#32 s0) 5).getLsbD 9 = false := by decide
theorem witness_PmacfgLowBitsOrderMemory :
    s0.inHandler = false ∧ pmacfgEn s0.csr.pmacfg0 = false ∧ pmacfgEn (writeStore .pmacfg1 1#32 s0).csr.pmacfg1 = true := by
  decide

theorem witness_CsrAddressesReadTheirStorage :
    (31 : Reg) ≠ 0 ∧ .csrrci 31 0xf14#12 0#5 ∈ pureReads 31 0xf14#12 ∧
    csrHome 0xb84#12 = some (.storage (.hpmHigh .four)) := by decide
theorem witness_CsrAddresses_constant : csrHome 0x008#12 = some (.constant 0x00000000#32) := rfl
theorem witness_VsetInHandlerStops :
    handler.inHandler = true ∧ Cfg0.unknownSetting handler.csr.cfg0 = false ∧
    isVset (.vsetvli 0 0 0#11) = true ∧ isVset (.vsetivli 0 0#5 0#11) = true ∧
    isVset (.vsetvl 0 0 0) = true := by decide

end Sys2Proof.Tests
end

section
/-! PROOFS. The state of the CSR file (10_state.md): two addresses of one storage are aliases (R27, R69). -/

namespace Sys2Proof.Machine

open Sys2Proof.Safety

/-- A set or clear form whose source field is 0 does not write (R147, R148, R150, R151). -/
theorem doWrite_of_pureRead {k : CsrKind} {src : CsrSource} (hk : k ≠ .write) (hzero : src.isZeroField = true) :
    doWrite k src = false := by
  cases k with
  | write => exact absurd rfl hk
  | set | clear => simp [doWrite, hzero]

/-- A CSR instruction that the handler bug does not reach completes on storage that is no HPM half. -/
theorem exec_csrInstr_storage {a : CsrAddr} {r : CsrStore} (hhome : csrHome a = some (.storage r))
    (hhalf : r.isHpmHalf = false) {k : CsrKind} {src : CsrSource} {s : State}
    (hhandler : doWrite k src = true → s.inHandler = false) (rd : Reg) :
    exec (csrInstr k rd a src) s =
      .next (csrEffect k rd (.storage r) (src.value s) (doRead k rd) (doWrite k src) s) := by
  have hclear : clears (.storage r) s = false := by simp [clears, CsrHome.isHpmHalf, hhalf]
  rw [exec_csrInstr]
  exact csrOp_completes hhome hhandler (fun _ hconst => nomatch hconst) (fun _ _ => hclear)

/-- `csrrw` with `rd = x0` outside a handler is a write without a read, of every storage (R147). -/
theorem exec_csrrw_x0 {a : CsrAddr} {r : CsrStore} {s : State} (hhome : csrHome a = some (.storage r))
    (hout : s.inHandler = false) (rs1 : Reg) :
    exec (.csrrw 0 a rs1) s = .next (csrEffect .write 0 (.storage r) (readReg s rs1) false true s) :=
  (exec_csrInstr .write 0 a (.reg rs1) s).trans
    (csrOp_completes hhome (fun _ => hout) (fun _ hconst => nomatch hconst) (fun hread => nomatch hread))

/-- `csrrs` with `rs1 = x0` is a read without a write, in a handler too (R148). -/
theorem exec_csrrs_x0 {a : CsrAddr} {home : CsrHome} (hhome : csrHome a = some home) (rd : Reg) (s : State) :
    exec (.csrrs rd a 0) s = .next (csrEffect .set rd home 0#32 true false s) :=
  (exec_csrInstr .set rd a (.reg 0) s).trans
    (csrOp_completes hhome (fun hwrite => nomatch hwrite) (fun hwrite => nomatch hwrite)
      (fun _ hwrite => nomatch hwrite))

/-- A write to storage whose every bit is writable leaves the value written. -/
theorem readStore_csrEffect_write {r : CsrStore} {s : State} (hmask : wmask s.params r = allBits)
    (rd : Reg) (v : Word) :
    readStore r (csrEffect .write rd (.storage r) v false true s) = v := by
  rw [readStore_csrEffect]
  change readStore r (csrWrite (.storage r) v s) = v
  rw [csrWrite_storage, readStore_writeStore_same, masked_allBits hmask]

/-- What is written through one address of storage whose every bit is writable is read through any other
address of it (R27). -/
theorem csrrw_then_csrrs_same_storage {a b : CsrAddr} {r : CsrStore} {s : State}
    (ha : csrHome a = some (.storage r)) (hb : csrHome b = some (.storage r))
    (hmask : wmask s.params r = allBits) (hout : s.inHandler = false) {rd : Reg} (hrd : rd ≠ 0) (rs1 : Reg) :
    ∃ t u, exec (.csrrw 0 a rs1) s = .next t ∧ exec (.csrrs rd b 0) t = .next u ∧
      readReg u rd = readReg s rs1 := by
  refine ⟨_, _, exec_csrrw_x0 ha hout rs1, exec_csrrs_x0 hb rd _, ?_⟩
  rw [readReg_csrEffect_rd hrd]
  exact readStore_csrEffect_write hmask 0 (readReg s rs1)

/-- Each Zicntr address with its `m` name (R69). -/
def zicntrAliases : List (CsrAddr × CsrAddr) :=
  [(0xc00#12, 0xb00#12), (0xc02#12, 0xb02#12), (0xc80#12, 0xb80#12), (0xc82#12, 0xb82#12)]

/-- A Zicntr address and its `m` name reach one half of `cyc` or `iret`, of which every bit is writable and
which is no HPM half. -/
theorem zicntrAliases_same_storage {p : CsrAddr × CsrAddr} (hp : p ∈ zicntrAliases) :
    ∃ r, csrHome p.1 = some (.storage r) ∧ csrHome p.2 = some (.storage r) ∧ r.isHpmHalf = false ∧
      ∀ q : Params, wmask q r = allBits := by
  simp only [zicntrAliases, List.mem_cons, List.not_mem_nil, or_false] at hp
  obtain rfl | rfl | rfl | rfl := hp
  · exact ⟨.cycLow, rfl, rfl, rfl, fun _ => rfl⟩
  · exact ⟨.iretLow, rfl, rfl, rfl, fun _ => rfl⟩
  · exact ⟨.cycHigh, rfl, rfl, rfl, fun _ => rfl⟩
  · exact ⟨.iretHigh, rfl, rfl, rfl, fun _ => rfl⟩

/-- Settles O20: an instruction's effect depends on the address only through the storage it reaches, and a
Zicntr address reaches the storage of its `m` name. -/
theorem zicntrAddressesAreAliases : Obligations.ZicntrAddressesAreAliases := by
  refine ⟨rfl, rfl, fun p hp rd s => ?_⟩
  obtain ⟨r, halias, hm, hhalf, hmask⟩ := zicntrAliases_same_storage hp
  refine ⟨fun k src hpure => ?_, fun hout hrd rs1 =>
    csrrw_then_csrrs_same_storage halias hm (hmask s.params) hout hrd rs1⟩
  have hhandler : doWrite k src = true → s.inHandler = false := fun hwrite =>
    Bool.eq_false_iff.mpr fun hin =>
      Bool.eq_false_iff.mp (doWrite_of_pureRead (hpure hin).1 (hpure hin).2) hwrite
  exact ⟨_, exec_csrInstr_storage halias hhalf hhandler rd, exec_csrInstr_storage hm hhalf hhandler rd⟩

end Sys2Proof.Machine
end

section
/-! PROOFS. The opcode map and the decoder (30_encoding.md): one row at most matches a word, so finding the row
does not depend on the order, and the row decides the instruction (R128, R129, R132). -/

namespace Sys2Proof

/-- A row matches as R128 says: `(w & mask) == match`. -/
theorem OpcodeRow.matches_iff {row : OpcodeRow} {w : Word} :
    row.matches w = true ↔ w &&& row.mask = row.pattern := beq_iff_eq

/-- Two rows that match one word agree where both masks look. -/
theorem OpcodeRow.pattern_and_mask_of_matches {p q : OpcodeRow} {w : Word} (hp : p.matches w = true)
    (hq : q.matches w = true) : p.pattern &&& q.mask = q.pattern &&& p.mask := by
  rw [← OpcodeRow.matches_iff.mp hp, ← OpcodeRow.matches_iff.mp hq, BitVec.and_assoc, BitVec.and_comm p.mask, BitVec.and_assoc]

/-- Any two rows of the opcode map differ in a bit that both masks look at. -/
theorem opcodeMap_separated :
    ∀ p ∈ opcodeMap, ∀ q ∈ opcodeMap, p.pattern &&& q.mask = q.pattern &&& p.mask → p = q := by decide

/-- No word matches two rows (R129). -/
theorem OpcodeRow.eq_of_matches {p q : OpcodeRow} {w : Word} (hp : p ∈ opcodeMap) (hq : q ∈ opcodeMap)
    (hpw : p.matches w = true) (hqw : q.matches w = true) : p = q :=
  opcodeMap_separated p hp q hq (OpcodeRow.pattern_and_mask_of_matches hpw hqw)

/-- The row of a mnemonic is the only one. -/
theorem OpcodeRow.eq_of_mnemonic_eq : ∀ p ∈ opcodeMap, ∀ q ∈ opcodeMap, p.mnemonic = q.mnemonic → p = q := by
  decide

@[simp] theorem mnemonic_decodeFields (m : Mnemonic) (w : Word) : (decodeFields m w).mnemonic = m := by
  cases m <;> rfl

/-- The search through the opcode map finds a row exactly when the row matches: there is no other match. -/
theorem find?_opcodeMap_eq_some_iff {row : OpcodeRow} {w : Word} :
    opcodeMap.find? (·.matches w) = some row ↔ row ∈ opcodeMap ∧ row.matches w = true := by
  have found : ∀ {q : OpcodeRow}, opcodeMap.find? (·.matches w) = some q →
      q ∈ opcodeMap ∧ q.matches w = true :=
    fun h => ⟨List.mem_of_find?_eq_some h, by simpa only using List.find?_some h⟩
  refine ⟨found, fun ⟨hrow, hw⟩ => ?_⟩
  have hsome : (opcodeMap.find? (·.matches w)).isSome = true := List.find?_isSome.mpr ⟨row, hrow, hw⟩
  obtain ⟨q, hfind⟩ := Option.isSome_iff_exists.mp hsome
  obtain ⟨hq, hqw⟩ := found hfind
  rw [hfind, OpcodeRow.eq_of_matches hq hrow hqw hw]

/-- What a word decodes to, by the row that matches it. -/
theorem decodeWord_eq_ok_iff {w : Word} {i : Instr} :
    decodeWord w = .ok i ↔
      ∃ row ∈ opcodeMap, row.matches w = true ∧ decodeFields row.mnemonic w = i := by
  have hdecode : decodeWord w = .ok i ↔
      ∃ row, opcodeMap.find? (·.matches w) = some row ∧ decodeFields row.mnemonic w = i := by
    unfold decodeWord
    cases opcodeMap.find? (·.matches w) <;> simp
  simp only [hdecode, find?_opcodeMap_eq_some_iff, and_assoc]

/-- A word is answered `Unmodelled` exactly when no row matches it (R132). -/
theorem decodeWord_eq_unmodelled_iff {w : Word} :
    decodeWord w = .error (.unmodelled w) ↔ ∀ p ∈ opcodeMap, p.matches w = false := by
  have hdecode : decodeWord w = .error (.unmodelled w) ↔ opcodeMap.find? (·.matches w) = none := by
    unfold decodeWord
    cases opcodeMap.find? (·.matches w) <;> simp
  simp only [hdecode, List.find?_eq_none, Bool.not_eq_true]

/-- The decoder is total: an instruction or `Unmodelled` (R132). -/
theorem decodeWord_total (w : Word) :
    (∃ i, decodeWord w = .ok i) ∨ decodeWord w = .error (.unmodelled w) := by
  by_cases h : ∃ row ∈ opcodeMap, row.matches w = true
  · obtain ⟨row, hrow, hw⟩ := h
    exact .inl ⟨_, decodeWord_eq_ok_iff.mpr ⟨row, hrow, hw, rfl⟩⟩
  · exact .inr (decodeWord_eq_unmodelled_iff.mpr fun p hp => Bool.eq_false_iff.mpr fun hw => h ⟨p, hp, hw⟩)

/-- A row of the map matches a word exactly when the word decodes to an instruction of its mnemonic (R128). -/
theorem matches_iff_decodeWord_mnemonic {row : OpcodeRow} (hrow : row ∈ opcodeMap) (w : Word) :
    row.matches w = true ↔ ∃ i, decodeWord w = .ok i ∧ i.mnemonic = row.mnemonic := by
  constructor
  · exact fun hw => ⟨_, decodeWord_eq_ok_iff.mpr ⟨row, hrow, hw, rfl⟩, mnemonic_decodeFields _ w⟩
  · rintro ⟨i, hi, hm⟩
    obtain ⟨q, hq, hqw, rfl⟩ := decodeWord_eq_ok_iff.mp hi
    rw [mnemonic_decodeFields] at hm
    rwa [← OpcodeRow.eq_of_mnemonic_eq q hq row hrow hm]

/-- Settles O3: the thirteen rows are those of the opcode map, in which one row at most matches a word and
each row has its own mnemonic. -/
theorem rowDecidesInstruction : Obligations.RowDecidesInstruction := fun row hrow w =>
  OpcodeRow.matches_iff.symm.trans (matches_iff_decodeWord_mnemonic (row := row) hrow w)

/-- Settles O4: any two rows differ in a bit that both masks look at, so at most one matches a word and a
permutation of the rows finds the same one. -/
theorem rowsDoNotOverlap : Obligations.RowsDoNotOverlap := by
  refine ⟨fun _ _ hp _ hq => OpcodeRow.eq_of_matches hp hq, fun rows w hperm => ?_, decodeWord_total,
    fun _ => decodeWord_eq_unmodelled_iff⟩
  refine List.find?_eq_find?_of_perm hperm ?_
  rintro p ⟨hp, hpw⟩ q ⟨hq, hqw⟩
  exact OpcodeRow.eq_of_matches (hperm.mem_iff.mp hp) (hperm.mem_iff.mp hq) hpw hqw

end Sys2Proof
end

section
/-! PROOFS. The CSR address space (10_state.md R22, 40_csr_instructions.md R140): the recognised addresses are
the rows of the table, and the class of an address is read off its row. -/

namespace Sys2Proof.Machine

open Sys2Proof.Safety

/-- The table lists the source's addresses in the source's order. -/
theorem csrTable_map_addr : csrTable.map (·.addr) = sourceCsrAddrs := rfl

/-- The recognised addresses are those of the source's table (R22). -/
theorem recognised_iff_mem {a : CsrAddr} : recognised a = true ↔ a ∈ sourceCsrAddrs := by
  rw [← csrTable_map_addr, List.mem_map]
  simp [recognised, csrHome]

/-- A recognised address has a home. -/
theorem exists_csrHome_of_mem {a : CsrAddr} (ha : a ∈ sourceCsrAddrs) : ∃ home, csrHome a = some home :=
  Option.isSome_iff_exists.mp (recognised_iff_mem.mpr ha)

/-- An unrecognised address has none. -/
theorem csrHome_eq_none_of_not_mem {a : CsrAddr} (ha : a ∉ sourceCsrAddrs) : csrHome a = none :=
  Option.not_isSome_iff_eq_none.mp (mt recognised_iff_mem.mp ha)

/-- The home of a row's address is the row's: no two rows have one address. -/
theorem csrHome_addr_of_mem_csrTable : ∀ row ∈ csrTable, csrHome row.addr = some row.home := by decide

/-- A home is that of a row of the table. -/
theorem exists_row_of_csrHome {a : CsrAddr} {home : CsrHome} (h : csrHome a = some home) :
    ∃ row ∈ csrTable, row.addr = a ∧ row.home = home := by
  obtain ⟨row, hfind, hrow⟩ := Option.map_eq_some_iff.mp h
  have haddr : (row.addr == a) = true := List.find?_some (p := fun row : CsrRow => row.addr == a) hfind
  exact ⟨row, List.mem_of_find?_eq_some hfind, beq_iff_eq.mp haddr, hrow⟩

/-- `Const(a)` holds for exactly the four addresses R140 lists. -/
theorem isConstant_iff_of_csrHome {a : CsrAddr} {home : CsrHome} (h : csrHome a = some home) :
    home.isConstant = true ↔ a ∈ [0x008#12, 0x300#12, 0x301#12, 0xf14#12] := by
  have hrows : ∀ row ∈ csrTable,
      (row.home.isConstant = true ↔ row.addr ∈ [0x008#12, 0x300#12, 0x301#12, 0xf14#12]) := by decide
  obtain ⟨row, hrow, rfl, rfl⟩ := exists_row_of_csrHome h
  exact hrows row hrow

/-- `HpmHalf(a)` holds for exactly the four addresses R140 lists. -/
theorem isHpmHalf_iff_of_csrHome {a : CsrAddr} {home : CsrHome} (h : csrHome a = some home) :
    home.isHpmHalf = true ↔ a ∈ [0xb03#12, 0xb83#12, 0xb04#12, 0xb84#12] := by
  have hrows : ∀ row ∈ csrTable,
      (row.home.isHpmHalf = true ↔ row.addr ∈ [0xb03#12, 0xb83#12, 0xb04#12, 0xb84#12]) := by decide
  obtain ⟨row, hrow, rfl, rfl⟩ := exists_row_of_csrHome h
  exact hrows row hrow

/-- The four constant CSRs with their values (R32, R35, R37, R78). -/
def constantCsrs : List (CsrAddr × Word) :=
  [(0x008#12, 0x00000000#32), (0x300#12, 0x80006600#32), (0x301#12, 0x40201123#32),
    (0xf14#12, 0x00000000#32)]

theorem csrHome_of_mem_constantCsrs {p : CsrAddr × Word} (hp : p ∈ constantCsrs) :
    csrHome p.1 = some (.constant p.2) := by
  simp only [constantCsrs, List.mem_cons, List.not_mem_nil, or_false] at hp
  obtain rfl | rfl | rfl | rfl := hp <;> rfl

/-- Each row's address with the value a read of it returns, as a function of the state. -/
def csrReadValues : List (CsrAddr × (State → Word)) :=
  csrTable.map fun row => (row.addr, readValue row.home)

/-- The address of a pair in `csrReadValues` has a home that reads as the pair says. -/
theorem exists_csrHome_of_mem_csrReadValues {p : CsrAddr × (State → Word)} (hp : p ∈ csrReadValues) :
    ∃ home, csrHome p.1 = some home ∧ readValue home = p.2 := by
  obtain ⟨row, hrow, rfl⟩ := List.mem_map.mp hp
  exact ⟨row.home, csrHome_addr_of_mem_csrTable row hrow, rfl⟩

end Sys2Proof.Machine
end

section
/-! PROOFS. The six CSR instructions (40_csr_instructions.md): the checks that stop one, pure reads with their
read side effect, and what an instruction that reads and writes leaves. -/

namespace Sys2Proof.Machine

open Sys2Proof.Safety

/-! ## `do_read` and `do_write` (R146 to R151) -/

theorem doWrite_eq_true_iff {k : CsrKind} {src : CsrSource} :
    doWrite k src = true ↔ k = .write ∨ src.isZeroField = false := by
  cases k <;> simp [doWrite]

theorem doRead_eq_true_iff {k : CsrKind} {rd : Reg} : doRead k rd = true ↔ (k = .write → rd ≠ 0) := by
  cases k <;> simp [doRead]

/-! ## The checks that stop an access (R152, steps 1 to 4) -/

section Stops

variable {k : CsrKind} {rd : Reg} {a : CsrAddr} {src : CsrSource} {s : State} {home : CsrHome}

/-- The address check comes first and asks for nothing else (R145). -/
theorem csrOp_unrecognised (hhome : csrHome a = none) : csrOp k rd a src s = .fault (.unrecognisedCsr a) := by
  simp [csrOp, hhome]

/-- The handler check stops every write to a recognised CSR (R153). -/
theorem csrOp_write_in_handler (hhome : csrHome a = some home) (hwrite : doWrite k src = true)
    (hin : s.inHandler = true) : csrOp k rd a src s = .fault (.csrWriteInHandler a) := by
  simp [csrOp, hhome, hwrite, hin]

/-- The constant check stops a write under `RO_WRITE = fault` (R144). -/
theorem csrOp_write_constant {v : Word} (hhome : csrHome a = some (.constant v))
    (hwrite : doWrite k src = true) (hout : s.inHandler = false) (hfault : s.params.roWrite = .fault) :
    csrOp k rd a src s = .fault (.readOnlyCsrWrite a) := by
  simp [csrOp, hhome, hwrite, hout, hfault, CsrHome.isConstant]

/-- The clear-on-read check stops a clearing read that also writes (R154). -/
theorem csrOp_clearing_read_with_write {r : CsrStore} (hhome : csrHome a = some (.storage r))
    (hread : doRead k rd = true) (hwrite : doWrite k src = true) (hout : s.inHandler = false)
    (hclear : clears (.storage r) s = true) :
    csrOp k rd a src s = .fault (.clearOnReadWithWrite a) := by
  have hchecks := Bool.and_eq_true_iff.mp hclear
  simp [csrOp, hhome, hread, hwrite, hout, hchecks, CsrHome.isConstant]

/-- On a recognised address an access completes, or one of the three checks of R144, R153 and R154 stops it
(R156). -/
theorem csrOp_recognised_cases (hhome : csrHome a = some home) (k : CsrKind) (rd : Reg) (src : CsrSource)
    (s : State) :
    (∃ t, csrOp k rd a src s = .next t) ∨
    (csrOp k rd a src s = .fault (.csrWriteInHandler a) ∧ doWrite k src = true ∧ s.inHandler = true) ∨
    (csrOp k rd a src s = .fault (.readOnlyCsrWrite a) ∧ doWrite k src = true ∧ home.isConstant = true ∧
      s.params.roWrite = .fault) ∨
    (csrOp k rd a src s = .fault (.clearOnReadWithWrite a) ∧ doRead k rd = true ∧ doWrite k src = true ∧
      home.isHpmHalf = true ∧ Cfg0.pmcClrOnRd s.csr.cfg0 = true) := by
  simp only [csrOp, hhome]
  split_ifs with hhandler hconst hclear
  · simp only [Bool.and_eq_true] at hhandler
    exact .inr (.inl ⟨rfl, hhandler⟩)
  · simp only [Bool.and_eq_true, beq_iff_eq, and_assoc] at hconst
    exact .inr (.inr (.inl ⟨rfl, hconst⟩))
  · simp only [Bool.and_eq_true, and_assoc] at hclear
    exact .inr (.inr (.inr ⟨rfl, hclear⟩))
  · exact .inl ⟨_, rfl⟩

end Stops

/-! ## Halves of an HPM counter -/

/-- The store is a half of the counter. -/
abbrev isHalfOf (n : HpmId) (r : CsrStore) : Prop := r = .hpmLow n ∨ r = .hpmHigh n

theorem isHpmHalf_of_isHalfOf {n : HpmId} {r : CsrStore} (hr : isHalfOf n r) : r.isHpmHalf = true := by
  obtain rfl | rfl := hr <;> rfl

theorem isHpmHalf_eq_false {r : CsrStore} (hr : ∀ n, r ≠ .hpmLow n ∧ r ≠ .hpmHigh n) : r.isHpmHalf = false := by
  cases r with
  | hpmLow n => exact absurd rfl (hr n).1
  | hpmHigh n => exact absurd rfl (hr n).2
  | _ => rfl

theorem wmask_of_isHalfOf {n : HpmId} {r : CsrStore} (hr : isHalfOf n r) (p : Params) : wmask p r = allBits := by
  obtain rfl | rfl := hr <;> rfl

/-- Clearing bit 64 through a half is a change of that counter alone. -/
theorem clearBit64_of_isHalfOf {n : HpmId} {r : CsrStore} (hr : isHalfOf n r) (s : State) :
    clearBit64 r s = setHpm n { hpm n s with bit64 := false } s := by
  obtain rfl | rfl := hr <;> rfl

theorem clears_storage_of_isHalfOf {n : HpmId} {r : CsrStore} {s : State} (hr : isHalfOf n r)
    (hcfg : Cfg0.pmcClrOnRd s.csr.cfg0 = true) : clears (.storage r) s = true :=
  Bool.and_eq_true_iff.mpr ⟨isHpmHalf_of_isHalfOf hr, hcfg⟩

theorem clears_eq_false_iff {home : CsrHome} {s : State} :
    clears home s = false ↔ home.isHpmHalf = false ∨ Cfg0.pmcClrOnRd s.csr.cfg0 = false :=
  Bool.and_eq_false_iff

/-! ## What every effect leaves alone -/

section Frames

variable (k : CsrKind) (rd : Reg) (src : Word) (reads writes : Bool) (s : State)

theorem sameRegsBut_csrEffect (home : CsrHome) :
    sameRegsBut [rd] s (csrEffect k rd home src reads writes s) := fun _ hq =>
  readReg_csrEffect_other (List.ne_of_not_mem_cons hq) k home src reads writes s

theorem sameCsrsBut_csrEffect (r : CsrStore) :
    sameCsrsBut [r] s (csrEffect k rd (.storage r) src reads writes s) := fun q hq => by
  rw [readStore_csrEffect, readStore_afterAccess_other (List.ne_of_not_mem_cons hq)]

theorem sameMemory_trapState_outside_csrEffect (home : CsrHome) :
    sameMemory s (csrEffect k rd home src reads writes s) ∧
      sameTrapState s (csrEffect k rd home src reads writes s) ∧
      sameOutside s (csrEffect k rd home src reads writes s) := by
  obtain ⟨-, hret, hin, hmem, hparams, hinputs, hboundary⟩ := csrEffect_frame k rd home src reads writes s
  exact ⟨fun a => by rw [hmem], ⟨hret, hin⟩, hparams, hinputs, hboundary⟩

variable {k src reads writes s}

/-- An effect whose access changes nothing changes only `rd` and `pc`. -/
theorem sameBut_csrEffect_of_afterAccess_eq {home : CsrHome}
    (haccess : afterAccess k home src reads writes s = s) :
    sameBut [rd] [] s (csrEffect k rd home src reads writes s) := by
  refine ⟨sameRegsBut_csrEffect k rd src reads writes s home, fun q _ => ?_, fun n => ?_,
    sameMemory_trapState_outside_csrEffect k rd src reads writes s home⟩
  · rw [readStore_csrEffect, haccess]
  · rw [hpm_csrEffect, haccess]

end Frames

/-! ## Pure reads (R142, R153) -/

/-- A pure read is a CSR instruction that reads and does not write. -/
theorem exists_csrInstr_of_mem_pureReads {i : Instr} {rd : Reg} {a : CsrAddr} (hi : i ∈ pureReads rd a) :
    ∃ k src, i = csrInstr k rd a src ∧ doRead k rd = true ∧ doWrite k src = false := by
  simp only [pureReads, List.mem_cons, List.not_mem_nil, or_false] at hi
  obtain rfl | rfl | rfl | rfl := hi
  · exact ⟨.set, .reg 0, rfl, rfl, rfl⟩
  · exact ⟨.clear, .reg 0, rfl, rfl, rfl⟩
  · exact ⟨.set, .imm 0#5, rfl, rfl, rfl⟩
  · exact ⟨.clear, .imm 0#5, rfl, rfl, rfl⟩

/-- An access that does not write is the read side effect, whatever the kind and the operand. -/
theorem afterAccess_read (k : CsrKind) (home : CsrHome) (src : Word) (s : State) :
    afterAccess k home src true false s = readEffect home s := rfl

/-- The four pure-read forms complete in every state, with one effect. -/
theorem exec_pureRead {i : Instr} {rd : Reg} {a : CsrAddr} {home : CsrHome} (hi : i ∈ pureReads rd a)
    (hhome : csrHome a = some home) (s : State) :
    exec i s = .next (csrEffect .set rd home 0#32 true false s) := by
  obtain ⟨k, src, rfl, hread, hwrite⟩ := exists_csrInstr_of_mem_pureReads hi
  have hstop : doWrite k src ≠ true := Bool.eq_false_iff.mp hwrite
  rw [exec_csrInstr, csrOp_completes hhome (absurd · hstop) (absurd · hstop) (fun _ => (absurd · hstop)),
    hread, hwrite]
  rfl

/-- A pure read without the side effect changes nothing but `rd` and `pc`. -/
theorem exec_pureRead_of_not_clears {i : Instr} {rd : Reg} {a : CsrAddr} {home : CsrHome} {s : State}
    (hi : i ∈ pureReads rd a) (hhome : csrHome a = some home) (hclear : clears home s = false) :
    ∃ t, exec i s = .next t ∧ (rd ≠ 0 → readReg t rd = readValue home s) ∧ t.pc = s.pc + 4#32 ∧
      sameBut [rd] [] s t :=
  ⟨_, exec_pureRead hi hhome s, fun hrd => readReg_csrEffect_rd hrd .set home 0#32 false s,
    (csrEffect_frame .set rd home 0#32 true false s).1,
    sameBut_csrEffect_of_afterAccess_eq rd (readEffect_of_not_clears hclear)⟩

/-- What a clearing pure read leaves in the half that was read and in bit 64 of the counters. -/
theorem csrEffect_clearing_read {n : HpmId} {r : CsrStore} {s : State} (hr : isHalfOf n r)
    (hcfg : Cfg0.pmcClrOnRd s.csr.cfg0 = true) (rd : Reg) :
    readStore r (csrEffect .set rd (.storage r) 0#32 true false s) = 0#32 ∧
      (hpm n (csrEffect .set rd (.storage r) 0#32 true false s)).bit64 = false ∧
      ∀ m, m ≠ n →
        (hpm m (csrEffect .set rd (.storage r) 0#32 true false s)).bit64 = (hpm m s).bit64 := by
  have hclear := readEffect_of_clears (clears_storage_of_isHalfOf hr hcfg)
  simp only [readStore_csrEffect, hpm_csrEffect, afterAccess_read, hclear]
  refine ⟨?_, ?_, fun m hm => ?_⟩
  · rw [readStore_clearBit64, readStore_writeStore_same]
  · rw [clearBit64_of_isHalfOf hr, hpm_setHpm_same]
  · rw [clearBit64_of_isHalfOf hr, hpm_setHpm_other hm, writeStore_bit64]

/-! ## Pure writes (R146, R149) -/

/-- Outside a handler the two write forms with `rd = x0` write any storage without reading it. -/
theorem exec_pureWrite {a : CsrAddr} {r : CsrStore} {s : State} (hhome : csrHome a = some (.storage r))
    (hout : s.inHandler = false) (src : CsrSource) :
    exec (csrInstr .write 0 a src) s =
      .next (csrEffect .write 0 (.storage r) (src.value s) false true s) :=
  (exec_csrInstr .write 0 a src s).trans
    (csrOp_completes hhome (fun _ => hout) (fun _ hconst => nomatch hconst) (fun hread => nomatch hread))

/-- An effect that writes and does not read keeps bit 64 of both HPM counters (R68, R154). -/
theorem bit64_csrEffect_write (rd : Reg) (home : CsrHome) (v : Word) (s : State) (n : HpmId) :
    (hpm n (csrEffect .write rd home v false true s)).bit64 = (hpm n s).bit64 := by
  obtain ⟨-, -, -, -, -, -, -, -, hbit64⟩ := csrWrite_frame home v s
  rw [hpm_csrEffect]
  exact hbit64 n

/-! ## Reading and writing (R146 to R151) -/

/-- Outside a handler and without a clearing read, every CSR instruction completes on storage. -/
theorem exec_csrInstr_of_not_clears {a : CsrAddr} {r : CsrStore} {s : State}
    (hhome : csrHome a = some (.storage r)) (hout : s.inHandler = false)
    (hclear : clears (.storage r) s = false) (k : CsrKind) (rd : Reg) (src : CsrSource) :
    exec (csrInstr k rd a src) s =
      .next (csrEffect k rd (.storage r) (src.value s) (doRead k rd) (doWrite k src) s) := by
  rw [exec_csrInstr]
  exact csrOp_completes hhome (fun _ => hout) (fun _ hconst => nomatch hconst) (fun _ _ => hclear)

/-- An effect that reads and writes leaves the combination of the old value and the operand, within
`WMASK` (R143, R152). -/
theorem readStore_csrEffect_read_write {r : CsrStore} {s : State} (hclear : clears (.storage r) s = false)
    (k : CsrKind) (rd : Reg) (src : Word) :
    readStore r (csrEffect k rd (.storage r) src true true s) =
      masked s.params r (readStore r s) (k.combine (readStore r s) src) := by
  have haccess : afterAccess k (.storage r) src true true s =
      csrWrite (.storage r) (k.combine (readStore r s) src) (readEffect (.storage r) s) := rfl
  rw [readStore_csrEffect, haccess, readEffect_of_not_clears hclear, csrWrite_storage,
    readStore_writeStore_same]

/-- With one register as source and destination, the register takes the old CSR value and the CSR the old
register value combined by the instruction's kind (R155). -/
theorem exec_csrInstr_same_register {q : Reg} {a : CsrAddr} {r : CsrStore} {s : State}
    (hhome : csrHome a = some (.storage r)) (hout : s.inHandler = false) (hq : q ≠ 0)
    (hclear : clears (.storage r) s = false) (k : CsrKind) :
    ∃ t, exec (csrInstr k q a (.reg q)) s = .next t ∧ readReg t q = readStore r s ∧
      readStore r t = masked s.params r (readStore r s) (k.combine (readStore r s) (readReg s q)) := by
  have hread : doRead k q = true := doRead_eq_true_iff.mpr fun _ => hq
  have hwrite : doWrite k (.reg q) = true := doWrite_eq_true_iff.mpr (.inr (beq_eq_false_iff_ne.mpr hq))
  have hexec := exec_csrInstr_of_not_clears hhome hout hclear k q (.reg q)
  rw [hread, hwrite] at hexec
  exact ⟨_, hexec, readReg_csrEffect_rd hq k (.storage r) _ true s,
    readStore_csrEffect_read_write hclear k q _⟩

/-! ## The obligations -/

/-- Settles O12: the four forms have one effect, the read side effect and then the write of `rd`. -/
theorem pureReadReturnsAndClears : Obligations.PureReadReturnsAndClears := by
  refine ⟨fun rd a n r s i hi hhome hr hcfg => ?_, fun rd a r s i hi hhome hpure => ?_,
    fun rd a v s i hi hhome => exec_pureRead_of_not_clears hi hhome rfl⟩
  · obtain ⟨hzero, hbit64, hother⟩ := csrEffect_clearing_read hr hcfg rd
    exact ⟨_, exec_pureRead hi hhome s, fun hrd => readReg_csrEffect_rd hrd .set (.storage r) 0#32 false s,
      hzero, hbit64, hother, (csrEffect_frame .set rd (.storage r) 0#32 true false s).1,
      sameRegsBut_csrEffect .set rd 0#32 true false s (.storage r),
      sameCsrsBut_csrEffect .set rd 0#32 true false s r,
      sameMemory_trapState_outside_csrEffect .set rd 0#32 true false s (.storage r)⟩
  · exact exec_pureRead_of_not_clears hi hhome (clears_eq_false_iff.mpr (hpure.imp_left isHpmHalf_eq_false))

/-- Settles O14: an access to a constant changes nothing, so the effect is the write of `rd`. -/
theorem constantWriteAttempt : Obligations.ConstantWriteAttempt := by
  intro k rd src s p hp hout hattempt
  have hhome := csrHome_of_mem_constantCsrs (p := p) hp
  refine ⟨fun hignore => ?_, fun hfault => ?_⟩
  · refine ⟨_, (exec_csrInstr k rd p.1 src s).trans (csrOp_completes hhome (fun _ => hout)
      (fun _ _ => hignore) (fun _ _ => rfl)), fun hrd => ?_, (csrEffect_frame ..).1,
      sameBut_csrEffect_of_afterAccess_eq rd (afterAccess_constant ..)⟩
    rw [doRead_eq_true_iff.mpr fun _ => hrd]
    exact readReg_csrEffect_rd hrd k (.constant p.2) _ _ s
  · rw [exec_csrInstr]
    exact csrOp_write_constant hhome (doWrite_eq_true_iff.mpr hattempt) hout hfault

/-- Settles O16: the first check of R152 asks for the address alone. -/
theorem unrecognisedAddressStops : Obligations.UnrecognisedAddressStops := fun k rd a src s ha =>
  (exec_csrInstr k rd a src s).trans (csrOp_unrecognised (csrHome_eq_none_of_not_mem ha))

/-- Settles O17: the handler check comes before every check but that of the address, and asks for a write. -/
theorem handlerCannotWriteCsrs : Obligations.HandlerCannotWriteCsrs := by
  refine fun s hin => ⟨fun k rd a src ha hattempt => ?_, fun rd a i hi ha => ?_⟩
  · obtain ⟨home, hhome⟩ := exists_csrHome_of_mem ha
    rw [exec_csrInstr]
    exact csrOp_write_in_handler hhome (doWrite_eq_true_iff.mpr hattempt) hin
  · obtain ⟨home, hhome⟩ := exists_csrHome_of_mem ha
    exact ⟨_, exec_pureRead hi hhome s⟩

/-- Settles O18: the check stops an access that both reads and writes; the read side effect of a pure read
clears, and a pure write has no read side effect and keeps bit 64. -/
theorem clearOnReadWithWriteStops : Obligations.ClearOnReadWithWriteStops := by
  intro rd a n r s hhome hr hcfg hout
  refine ⟨fun k src hrd hattempt => ?_, fun i hi => ?_, fun src => ?_⟩
  · rw [exec_csrInstr]
    exact csrOp_clearing_read_with_write hhome (doRead_eq_true_iff.mpr hrd) (doWrite_eq_true_iff.mpr hattempt)
      hout (clears_storage_of_isHalfOf hr hcfg)
  · obtain ⟨hzero, hbit64, -⟩ := csrEffect_clearing_read hr hcfg rd
    exact ⟨_, exec_pureRead hi hhome s, hzero, hbit64⟩
  · exact ⟨_, exec_pureWrite hhome hout src, readStore_csrEffect_write (wmask_of_isHalfOf hr s.params) 0 _,
      bit64_csrEffect_write 0 (.storage r) _ s n⟩

/-- Settles O19: the cases of the common rule on a recognised address, with the constants and the HPM halves
as R140 lists them. -/
theorem csrAccessStopsOnlyByItsChecks : Obligations.CsrAccessStopsOnlyByItsChecks := by
  intro k rd a src s ha
  obtain ⟨home, hhome⟩ := exists_csrHome_of_mem ha
  rw [exec_csrInstr]
  obtain hnext | ⟨hstop, hwrite, hin⟩ | ⟨hstop, hwrite, hconst, hfault⟩ | ⟨hstop, hread, hwrite, hhalf, hcfg⟩ :=
    csrOp_recognised_cases hhome k rd src s
  · exact .inl hnext
  · exact .inr (.inl ⟨hstop, hin, doWrite_eq_true_iff.mp hwrite⟩)
  · exact .inr (.inr (.inl ⟨hstop, hfault, (isConstant_iff_of_csrHome hhome).mp hconst,
      doWrite_eq_true_iff.mp hwrite⟩))
  · exact .inr (.inr (.inr ⟨hstop, hcfg, (isHpmHalf_iff_of_csrHome hhome).mp hhalf,
      doWrite_eq_true_iff.mp hwrite, doRead_eq_true_iff.mp hread⟩))

/-- Settles O22: the three kinds of one lemma; under a mask of all ones the masked write is the operand. -/
theorem sourceIsReadBeforeDestination : Obligations.SourceIsReadBeforeDestination := by
  intro q a r s hhome hout hq hpure
  have hkind := exec_csrInstr_same_register hhome hout hq (clears_eq_false_iff.mpr hpure)
  refine ⟨?_, hkind .set, hkind .clear⟩
  obtain ⟨t, hexec, hreg, hstore⟩ := hkind .write
  exact ⟨t, hexec, hreg, hstore, fun hmask => hstore.trans (masked_allBits hmask _ _)⟩

/-- Settles O56: the list is the table with each home's read, and a pure read puts that value in `rd`. -/
theorem csrAddressesReadTheirStorage : Obligations.CsrAddressesReadTheirStorage := by
  refine ⟨fun p hp rd s hrd i hi => ?_, fun a home hhome =>
    ⟨isConstant_iff_of_csrHome hhome, isHpmHalf_iff_of_csrHome hhome⟩⟩
  obtain ⟨home, hhome, hvalue⟩ := exists_csrHome_of_mem_csrReadValues (p := p) hp
  refine ⟨_, exec_pureRead hi hhome s, ?_⟩
  rw [readReg_csrEffect_rd hrd, hvalue]

end Sys2Proof.Machine
end

section
/-! PROOFS. The named instructions (41_named_instructions.md): those the spec gives no meaning, and the words of
the instructions without operands (R176, R177). -/

namespace Sys2Proof

/-- A row whose mask is all ones matches its pattern alone. -/
theorem OpcodeRow.matches_allOnes_iff {m : Mnemonic} {v w : Word} :
    OpcodeRow.matches ⟨m, BitVec.allOnes 32, v⟩ w = true ↔ w = v := by
  rw [OpcodeRow.matches_iff, BitVec.and_allOnes]

/-- An instruction whose row fixes every bit is exactly one word (R126). -/
theorem decodeWord_eq_ok_iff_of_allOnes {i : Instr} {v : Word}
    (hrow : ⟨i.mnemonic, BitVec.allOnes 32, v⟩ ∈ opcodeMap) (hfields : decodeFields i.mnemonic v = i) (w : Word) :
    decodeWord w = .ok i ↔ w = v := by
  constructor
  · exact fun h => OpcodeRow.matches_allOnes_iff.mp ((matches_iff_decodeWord_mnemonic hrow w).mpr ⟨i, h, rfl⟩)
  · rintro rfl
    exact decodeWord_eq_ok_iff.mpr ⟨_, hrow, OpcodeRow.matches_allOnes_iff.mpr rfl, hfields⟩

end Sys2Proof

namespace Sys2Proof.Machine

@[simp] theorem exec_ecall (s : State) : exec .ecall s = .fault (.unmodelled .ecall) := rfl

@[simp] theorem exec_ebreak (s : State) : exec .ebreak s = .fault (.unmodelled .ebreak) := rfl

/-- Settles O32: neither arm looks at the state, and the rows of both fix every bit of the word. -/
theorem ecallAndEbreakStop : Obligations.EcallAndEbreakStop :=
  ⟨fun s => ⟨exec_ecall s, exec_ebreak s⟩,
    decodeWord_eq_ok_iff_of_allOnes (i := .ecall) (by decide) rfl,
    decodeWord_eq_ok_iff_of_allOnes (i := .ebreak) (by decide) rfl, rfl, rfl⟩

end Sys2Proof.Machine
end

section
/-! PROOFS. Exceptions (60_exceptions.md): the interrupt entry, the return from a handler, and a single event of an
HPM counter (R197, R199, R200, R212). -/

namespace Sys2Proof.Machine

open Sys2Proof.Safety

/-- `hpm` depends on the two HPM counters alone. -/
theorem hpm_congr {s t : State} (h₃ : t.hpm3 = s.hpm3) (h₄ : t.hpm4 = s.hpm4) (n : HpmId) : hpm n t = hpm n s := by
  cases n with
  | three => exact h₃
  | four => exact h₄

/-! ## The return from a handler (R178, R199) -/

theorem exec_mret_in_handler {s : State} (hknown : Cfg0.unknownSetting s.csr.cfg0 = false)
    (hin : s.inHandler = true) : exec .mret s = .next (intReturn s) := by
  change execMret s = _
  simp [execMret, hknown, hin]

/-- No instruction but `mret` changes `in_handler`. -/
theorem inHandler_of_exec_next {i : Instr} {s t : State} (h : exec i s = .next t) (hi : i ≠ .mret) :
    t.inHandler = s.inHandler := by
  obtain ⟨k, rd, a, src, home, -, -, -, -, rfl⟩ | ⟨o, -, -, -, rfl⟩ | ⟨_, _, _, -, -, rfl⟩ | ⟨rfl, -⟩ :=
    exec_next_cases h
  · obtain ⟨-, -, hframe, -⟩ := csrEffect_frame k rd home (src.value s) (doRead k rd) (doWrite k src) s
    exact hframe
  · obtain ⟨-, -, hframe, -⟩ := vsetEffect_frame o.form o.rd o.avl o.req s
    exact hframe
  · exact advancePc_inHandler s
  · exact absurd rfl hi

/-- Settles O33: `mret` answers `intReturn`, which changes two fields; the other instructions keep `in_handler`. -/
theorem mretReturns : Obligations.MretReturns := by
  refine fun s hin => ⟨fun hknown => ?_, fun i t h hout => ?_⟩
  · exact ⟨intReturn s, exec_mret_in_handler hknown hin, rfl, rfl, rfl, fun r _ => readReg_intReturn r s,
      fun r _ => readStore_intReturn r s, fun n => congrArg _ (hpm_congr rfl rfl n), fun _ => rfl, rfl, rfl, rfl⟩
  · by_contra hi
    have hkeep : t.inHandler = s.inHandler := inHandler_of_exec_next h hi
    exact Bool.false_ne_true (hout.symm.trans (hkeep.trans hin))

/-! ## The interrupt source (R197, R200) -/

theorem step_of_pending {s : State} (hsync : Cfg0.unsynchronised s.csr.cfg0 = false)
    (hpending : (currentBoundary s).intPending = true) : step s = interruptStep s := by
  simp [step, runStep, hsync, hpending]

theorem interruptStep_outside_handler {s : State} (hknown : Cfg0.unknownSetting s.csr.cfg0 = false)
    (hout : s.inHandler = false) : interruptStep s = .next (answerInterrupt (intEntry s)) := by
  simp [interruptStep, hknown, hout]

theorem interruptStep_in_handler {s : State} (hknown : Cfg0.unknownSetting s.csr.cfg0 = false)
    (hin : s.inHandler = true) : interruptStep s = .fault .nestedInterrupt := by
  simp [interruptStep, hknown, hin]

/-- Where the list of inputs is empty no interrupt is requested, so there is nothing to answer. -/
theorem quiet_answerInterrupt (s : State) : quiet (answerInterrupt s) := by
  unfold quiet answerInterrupt currentBoundary
  cases hinputs : s.inputs with
  | nil => simp [hinputs]
  | cons b rest => rfl

/-- Answering a request changes no boundary after the coming one. -/
@[simp] theorem answerInterrupt_inputs_tail (s : State) : (answerInterrupt s).inputs.tail = s.inputs.tail := by
  unfold answerInterrupt
  cases hinputs : s.inputs with
  | nil => simp [hinputs]
  | cons b rest => rfl

@[simp] theorem readReg_answerInterrupt (r : Reg) (s : State) : readReg (answerInterrupt s) r = readReg s r :=
  readReg_congr (answerInterrupt_regs s) r

@[simp] theorem readStore_answerInterrupt (r : CsrStore) (s : State) :
    readStore r (answerInterrupt s) = readStore r s :=
  readStore_congr (by simp) (by simp) (by simp) (by simp) (by simp) r

@[simp] theorem hpm_answerInterrupt (n : HpmId) (s : State) : hpm n (answerInterrupt s) = hpm n s :=
  hpm_congr (by simp) (by simp) n

/-- To the CSRs the entry is a write of `pc` to `intp_restore_pc`. -/
theorem readStore_intEntry (r : CsrStore) (s : State) :
    readStore r (intEntry s) = readStore r (writeStore .intpRestorePc s.pc s) :=
  readStore_congr rfl rfl rfl rfl rfl r

theorem sameCsrsBut_intEntry (s : State) : sameCsrsBut [.intpRestorePc] s (intEntry s) := fun r hr => by
  rw [readStore_intEntry, readStore_writeStore_other (List.ne_of_not_mem_cons hr)]

/-- Settles O36: the step is `answerInterrupt (intEntry s)`; the entry writes four fields, and the answer changes
only the request of the coming boundary. -/
theorem interruptEntrySavesPc : Obligations.InterruptEntrySavesPc := by
  intro s ⟨hknown, hsync⟩ hpending hout
  have hstep : step s = .next (answerInterrupt (intEntry s)) :=
    (step_of_pending hsync hpending).trans (interruptStep_outside_handler hknown hout)
  have hcsrs : sameCsrsBut [.intpRestorePc] s (answerInterrupt (intEntry s)) := fun r hr =>
    (readStore_answerInterrupt r _).trans (sameCsrsBut_intEntry s r hr)
  exact ⟨answerInterrupt (intEntry s), hstep, answerInterrupt_retPc _, readStore_answerInterrupt _ _,
    answerInterrupt_inHandler _, answerInterrupt_pc _, quiet_answerInterrupt _,
    fun r _ => readReg_answerInterrupt r _, hcsrs,
    fun n => congrArg _ ((hpm_answerInterrupt n _).trans (hpm_congr rfl rfl n)),
    fun a => congrArg (Memory.read · a) (answerInterrupt_mem _), answerInterrupt_params _,
    answerInterrupt_boundary _, answerInterrupt_inputs_tail _⟩

/-- Settles O37: the interrupt source looks at `in_handler` before it enters. -/
theorem nestedInterruptStops : Obligations.NestedInterruptStops := fun _ ⟨hknown, hsync⟩ hpending hin =>
  (step_of_pending hsync hpending).trans (interruptStep_in_handler hknown hin)

/-! ## A single event of an HPM counter (R212) -/

section HpmEvent

variable {c : CsrFile} {n : HpmId} {h : HpmCounter}

theorem hpmEventStep_inhibited (hinhibited : hpmInhibited c.mcountinhibit n = true) (draw : Bool) :
    hpmEventStep c n draw h = h := by
  simp [hpmEventStep, hinhibited]

theorem hpmEventStep_stopped (hstop : Cfg0.disPmcWrapArnd c.cfg0 = true) (htop : h.bit64 = true) (draw : Bool) :
    hpmEventStep c n draw h = h := by
  simp [hpmEventStep, hstop, htop]

/-- A counter that is neither inhibited nor stopped counts by one, with a carry out of the low 64 bits into
bit 64. -/
theorem hpmEventStep_running (hrun : hpmInhibited c.mcountinhibit n = false)
    (hgo : Cfg0.disPmcWrapArnd c.cfg0 = false ∨ h.bit64 = false) (draw : Bool) :
    hpmEventStep c n draw h =
      if h.low = 0xffffffffffffffff#64 then { low := 0#64, bit64 := if h.bit64 then draw else true }
      else { h with low := h.low + 1#64 } := by
  have hstop : (Cfg0.disPmcWrapArnd c.cfg0 && h.bit64) = false := Bool.and_eq_false_iff.mpr hgo
  simp only [hpmEventStep, hrun, hstop, ite_not, Bool.false_eq_true, if_false]

end HpmEvent

/-- Settles O50: `mcountinhibit` bits 3 and 4 inhibit the counters of those numbers, and the event then falls
into one of the three cases above. -/
theorem hpmEventRule : Obligations.HpmEventRule := by
  intro p hp c draw h
  have hbit : c.mcountinhibit.getLsbD p.2 = hpmInhibited c.mcountinhibit p.1 := by
    simp only [List.mem_cons, List.not_mem_nil, or_false] at hp
    obtain rfl | rfl := hp <;> rfl
  rw [hbit]
  refine ⟨fun hinhibited => hpmEventStep_inhibited hinhibited draw, fun hstop htop =>
    hpmEventStep_stopped hstop htop draw, fun hrun hgo => ?_⟩
  rw [hpmEventStep_running hrun hgo]
  constructor
  · intro hlow
    simp [hlow]
  · intro hlow
    cases htop : h.bit64 <;> simp [hlow]

end Sys2Proof.Machine
end

section
/-! PROOFS. Reset (70_reset_and_hazards.md): what the fields of `cfg0` hold after it (R44, R233). -/

namespace Sys2Proof.Machine

/-- `cfg0` after reset is bit 17 alone, the high bit of `StMergeTimer` (R44). -/
theorem cfg0_launch (l : Launch) : (State.launch l).csr.cfg0 = BitVec.twoPow 32 17 := rfl

/-- So every one-bit field of `cfg0` is clear after reset. -/
theorem cfg0_launch_bit_clear (l : Launch) {n : Nat} (hn : 17 ≠ n) :
    (State.launch l).csr.cfg0.getLsbD n = false := by
  simp [cfg0_launch, BitVec.getLsbD_twoPow, hn]

/-- `mret` is the one instruction that is not in the `DisCsrSync` list (R53, R179). -/
theorem inCsrSyncList_iff (i : Instr) : inCsrSyncList i = true ↔ i ≠ .mret := by
  cases i <;> simp [inCsrSyncList]

/-- With `SyncAllOps` and `DisCsrSync` clear, the instructions of the list are the ones that drain the pipeline. -/
theorem drainsPipeline_eq_inCsrSyncList {c : Word} (hall : Cfg0.syncAllOps c = false)
    (hlist : Cfg0.disCsrSync c = false) (i : Instr) : drainsPipeline c i = inCsrSyncList i := by
  simp [drainsPipeline, hall, hlist]

/-- With `EnBFloat` clear, `EnBFloatRTNE` selects nothing (R60, R61). -/
theorem zfhFormat_fp16 {c : Word} (h : Cfg0.enBFloat c = false) : zfhFormat c = .fp16 := by
  simp [zfhFormat, h]

/-- Settles O44: bit 17 of `cfg0` is set after reset and no other. That bit gives `StMergeTimer` its 16 and
leaves every other field 0. -/
theorem resetConfigurationInForce : Obligations.ResetConfigurationInForce := by
  intro l c
  have hcfg0 : c = BitVec.twoPow 32 17 := cfg0_launch l
  have hclear {n : Nat} (hn : 17 ≠ n) : c.getLsbD n = false := cfg0_launch_bit_clear l hn
  have hall : Cfg0.syncAllOps c = false := hclear (by decide)
  have hdrains (i : Instr) : drainsPipeline c i = true ↔ i ≠ .mret := by
    rw [drainsPipeline_eq_inCsrSyncList hall (hclear (by decide)), inCsrSyncList_iff]
  have htimer : Cfg0.stMergeTimer c = 16 := by rw [hcfg0]; decide
  have hunknown : Cfg0.unknownSetting c = false := by rw [hcfg0]; decide
  exact ⟨hclear (by decide), hclear (by decide), hclear (by decide), hclear (by decide), hclear (by decide), htimer,
    hclear (by decide), hclear (by decide), hdrains, hall, hclear (by decide), hclear (by decide),
    hclear (by decide), zfhFormat_fp16 (hclear (by decide)), hunknown⟩

end Sys2Proof.Machine
end

section
/-! PROOFS. The encoder (30_encoding.md): every format is five fields of the word, reading a field of the word
gives the field, and the row that matches a word says what its fixed fields are (R122 to R128). -/

namespace Sys2Proof.Laws

/-! ## A word as five fields (R122 to R125) -/

section Fields

variable (top : BitVec 12) (mid : BitVec 5) (funct3 : BitVec 3) (rd : BitVec 5) (opcode : BitVec 7)

/-- Bits of the top field, by their place in it. -/
theorem extract_top_fields (k n : Nat) :
    (fields top mid funct3 rd opcode).extractLsb' (20 + k) n = top.extractLsb' k n := by
  unfold fields
  rw [BitVec.extractLsb'_append_eq_of_le (by omega), BitVec.extractLsb'_append_eq_of_le (by omega),
    BitVec.extractLsb'_append_eq_of_le (by omega), BitVec.extractLsb'_append_eq_of_le (by omega)]
  congr 1
  omega

/-- The field at bits 19:15: `rs1` or `uimm`. -/
theorem uimmOf_fields : uimmOf (fields top mid funct3 rd opcode) = mid := by
  unfold uimmOf fields
  rw [BitVec.extractLsb'_append_eq_of_le (by decide), BitVec.extractLsb'_append_eq_of_le (by decide),
    BitVec.extractLsb'_append_eq_of_le (by decide)]
  exact BitVec.extractLsb'_append_eq_right

theorem rs1Of_fields : rs1Of (fields top mid funct3 rd opcode) = regOfField mid :=
  congrArg regOfField (uimmOf_fields top mid funct3 rd opcode)

theorem rdOf_fields : rdOf (fields top mid funct3 rd opcode) = regOfField rd := by
  unfold rdOf fields
  rw [BitVec.extractLsb'_append_eq_of_le (by decide)]
  exact congrArg regOfField BitVec.extractLsb'_append_eq_right

theorem csrOf_fields : csrOf (fields top mid funct3 rd opcode) = top :=
  (extract_top_fields top mid funct3 rd opcode 0 12).trans BitVec.extractLsb'_eq_self

theorem rs2Of_fields (high : BitVec 7) (low : BitVec 5) :
    rs2Of (fields (high ++ low) mid funct3 rd opcode) = regOfField low :=
  congrArg regOfField ((extract_top_fields _ mid funct3 rd opcode 0 5).trans BitVec.extractLsb'_append_eq_right)

theorem zimm11Of_fields (high : BitVec 1) (low : BitVec 11) :
    zimm11Of (fields (high ++ low) mid funct3 rd opcode) = low :=
  (extract_top_fields _ mid funct3 rd opcode 0 11).trans BitVec.extractLsb'_append_eq_right

theorem zimm10Of_fields (high : BitVec 2) (low : BitVec 10) :
    zimm10Of (fields (high ++ low) mid funct3 rd opcode) = low.setWidth 11 :=
  congrArg (BitVec.setWidth 11)
    ((extract_top_fields _ mid funct3 rd opcode 0 10).trans BitVec.extractLsb'_append_eq_right)

theorem fm_fields (fm p q : BitVec 4) :
    (fields (fm ++ p ++ q) mid funct3 rd opcode).extractLsb' 28 4 = fm := by
  refine (extract_top_fields _ mid funct3 rd opcode 8 4).trans ?_
  rw [BitVec.extractLsb'_append_eq_of_le (by decide)]
  exact BitVec.extractLsb'_append_eq_left

theorem pred_fields (fm p q : BitVec 4) :
    (fields (fm ++ p ++ q) mid funct3 rd opcode).extractLsb' 24 4 = p := by
  refine (extract_top_fields _ mid funct3 rd opcode 4 4).trans ?_
  rw [BitVec.extractLsb'_append_eq_of_le (by decide)]
  exact BitVec.extractLsb'_append_eq_right

theorem succ_fields (fm p q : BitVec 4) :
    (fields (fm ++ p ++ q) mid funct3 rd opcode).extractLsb' 20 4 = q :=
  (extract_top_fields _ mid funct3 rd opcode 0 4).trans BitVec.extractLsb'_append_eq_right

end Fields

/-- A word is its five fields. -/
theorem fields_of_word (w : Word) :
    fields (csrOf w) (uimmOf w) (w.extractLsb' 12 3) (w.extractLsb' 7 5) (w.extractLsb' 0 7) = w := by
  unfold fields csrOf uimmOf
  rw [BitVec.extractLsb'_append_extractLsb'_eq_extractLsb' (show 20 = 15 + 5 from rfl),
    BitVec.extractLsb'_append_extractLsb'_eq_extractLsb' (show 15 = 12 + 3 from rfl),
    BitVec.extractLsb'_append_extractLsb'_eq_extractLsb' (show 12 = 7 + 5 from rfl),
    BitVec.extractLsb'_append_extractLsb'_eq_extractLsb' (show 7 = 0 + 7 from rfl)]
  exact BitVec.extractLsb'_eq_self

@[simp] theorem regOfField_fieldOfReg (r : Reg) : regOfField (fieldOfReg r) = r := rfl

@[simp] theorem fenceSetOf_fieldOfFenceSet (f : FenceSet) : fenceSetOf (fieldOfFenceSet f) = f := by
  obtain ⟨i, o, r, w⟩ := f
  cases i <;> cases o <;> cases r <;> cases w <;> rfl

@[simp] theorem fieldOfFenceSet_fenceSetOf (f : BitVec 4) : fieldOfFenceSet (fenceSetOf f) = f := by
  revert f
  decide

/-- Two concatenations are equal exactly when their parts are. -/
theorem append_eq_append_iff {m n : Nat} {a a' : BitVec m} {b b' : BitVec n} :
    a ++ b = a' ++ b' ↔ a = a' ∧ b = b' := by
  constructor
  · intro h
    have hleft := congrArg (·.extractLsb' n m) h
    have hright := congrArg (·.extractLsb' 0 n) h
    simp only [BitVec.extractLsb'_append_eq_left, BitVec.extractLsb'_append_eq_right] at hleft hright
    exact ⟨hleft, hright⟩
  · rintro ⟨rfl, rfl⟩
    rfl

/-- A row that looks at `funct3`, the opcode and some bits of the top field matches a word exactly when those
fields are the row's. -/
theorem matches_fields_iff {m : Mnemonic} {mask pattern : BitVec 12} {funct3 : BitVec 3} {opcode : BitVec 7}
    {w : Word} :
    OpcodeRow.matches ⟨m, fields mask 0#5 0b111#3 0#5 0b1111111#7, fields pattern 0#5 funct3 0#5 opcode⟩ w = true ↔
      csrOf w &&& mask = pattern ∧ w.extractLsb' 12 3 = funct3 ∧ w.extractLsb' 0 7 = opcode := by
  rw [OpcodeRow.matches_iff]
  conv_lhs => rw [← fields_of_word w]
  rw [fields_and]
  have h : ∀ {t t' : BitVec 12} {f f' : BitVec 3} {o o' : BitVec 7},
      fields t 0#5 f 0#5 o = fields t' 0#5 f' 0#5 o' ↔ t = t' ∧ f = f' ∧ o = o' := by
    intros
    unfold fields
    rw [append_eq_append_iff]
    simp only [append_eq_append_iff, and_true, and_assoc]
  exact h

/-! ## Encoding and then decoding -/

theorem encodeCsr_eq_fields (a : CsrAddr) (mid : BitVec 5) (funct3 : BitVec 3) (rd : Reg) :
    encodeCsr a mid funct3 rd = fields a mid funct3 (fieldOfReg rd) 0b1110011#7 := rfl

theorem encodeWord_vsetvli (rd rs1 : Reg) (z : BitVec 11) :
    encodeWord (.vsetvli rd rs1 z) =
      fields (0b0#1 ++ z) (fieldOfReg rs1) 0b111#3 (fieldOfReg rd) 0b1010111#7 := rfl

theorem encodeWord_vsetivli (rd : Reg) (u : BitVec 5) (z : BitVec 11) :
    encodeWord (.vsetivli rd u z) =
      fields (0b11#2 ++ z.setWidth 10) u 0b111#3 (fieldOfReg rd) 0b1010111#7 := rfl

theorem encodeWord_vsetvl (rd rs1 rs2 : Reg) :
    encodeWord (.vsetvl rd rs1 rs2) =
      fields (0b1000000#7 ++ fieldOfReg rs2) (fieldOfReg rs1) 0b111#3 (fieldOfReg rd) 0b1010111#7 := by
  rfl

theorem encodeWord_fence (fm : BitVec 4) (p q : FenceSet) :
    encodeWord (.fence fm p q) =
      fields (fm ++ fieldOfFenceSet p ++ fieldOfFenceSet q) 0#5 0b000#3 0#5 0b0001111#7 := rfl

/-- A `zimm` whose bit 10 is clear is the zero-extension of its low 10 bits. -/
theorem zimm_of_low10 {z : BitVec 11} (h : z.getLsbD 10 = false) : (z.setWidth 10).setWidth 11 = z := by
  ext k hk
  by_cases h10 : k = 10
  · subst h10
    simpa using h.symm
  · simp [BitVec.getLsbD_eq_getElem hk, show k < 10 by omega]

/-- The fields of an encoded instruction are its operands. -/
theorem decodeFields_encodeWord {i : Instr} (hwf : i.wellFormed = true) :
    decodeFields i.mnemonic (encodeWord i) = i := by
  cases i with
  | csrrw rd a rs1 | csrrs rd a rs1 | csrrc rd a rs1 =>
    simp only [Instr.mnemonic, decodeFields, encodeWord, encodeCsr_eq_fields, rdOf_fields, csrOf_fields,
      rs1Of_fields, regOfField_fieldOfReg]
  | csrrwi rd a u | csrrsi rd a u | csrrci rd a u =>
    simp only [Instr.mnemonic, decodeFields, encodeWord, encodeCsr_eq_fields, rdOf_fields, csrOf_fields,
      uimmOf_fields, regOfField_fieldOfReg]
  | vsetvli rd rs1 z =>
    simp only [Instr.mnemonic, decodeFields, encodeWord_vsetvli, rdOf_fields, rs1Of_fields, zimm11Of_fields,
      regOfField_fieldOfReg]
  | vsetivli rd u z =>
    have hz : z.getLsbD 10 = false := by simpa [Instr.wellFormed] using hwf
    simp only [Instr.mnemonic, decodeFields, encodeWord_vsetivli, rdOf_fields, uimmOf_fields, zimm10Of_fields,
      regOfField_fieldOfReg, zimm_of_low10 hz]
  | vsetvl rd rs1 rs2 =>
    simp only [Instr.mnemonic, decodeFields, encodeWord_vsetvl, rdOf_fields, rs1Of_fields, rs2Of_fields,
      regOfField_fieldOfReg]
  | fence fm p q =>
    simp only [Instr.mnemonic, decodeFields, encodeWord_fence, fm_fields, pred_fields, succ_fields,
      fenceSetOf_fieldOfFenceSet]
  | ecall | ebreak | mret => rfl

/-- An instruction's word matches the row of its mnemonic. -/
theorem encodesItsRow (i : Instr) : EncodesItsRow.Statement i := by
  cases i with
  | csrrw rd a rs1 => exact EncodesItsRow.csrrw rd a rs1
  | csrrs rd a rs1 => exact EncodesItsRow.csrrs rd a rs1
  | csrrc rd a rs1 => exact EncodesItsRow.csrrc rd a rs1
  | csrrwi rd a u => exact EncodesItsRow.csrrwi rd a u
  | csrrsi rd a u => exact EncodesItsRow.csrrsi rd a u
  | csrrci rd a u => exact EncodesItsRow.csrrci rd a u
  | vsetvli rd rs1 z => exact EncodesItsRow.vsetvli rd rs1 z
  | vsetivli rd u z => exact EncodesItsRow.vsetivli rd u z
  | vsetvl rd rs1 rs2 => exact EncodesItsRow.vsetvl rd rs1 rs2
  | fence fm p q => exact EncodesItsRow.fence fm p q
  | ecall => exact EncodesItsRow.ecall
  | ebreak => exact EncodesItsRow.ebreak
  | mret => exact EncodesItsRow.mret

/-- Every mnemonic has a row. -/
theorem exists_row_of_mnemonic (m : Mnemonic) : ∃ row ∈ opcodeMap, row.mnemonic = m := by
  cases m <;> decide

theorem decodeWord_encodeWord {i : Instr} (hwf : i.wellFormed = true) : decodeWord (encodeWord i) = .ok i := by
  obtain ⟨row, hrow, hm⟩ := exists_row_of_mnemonic i.mnemonic
  have hmatch : row.matches (encodeWord i) = true := OpcodeRow.matches_iff.mpr (encodesItsRow i row hrow hm)
  exact decodeWord_eq_ok_iff.mpr ⟨row, hrow, hmatch, hm ▸ decodeFields_encodeWord hwf⟩

/-- The four bytes of a word make up the word (R102, R121). -/
theorem wordOfBytes_of_word (w : Word) :
    wordOfBytes (w.extractLsb' 0 8) (w.extractLsb' 8 8) (w.extractLsb' 16 8) (w.extractLsb' 24 8) = w := by
  unfold wordOfBytes
  rw [BitVec.extractLsb'_append_extractLsb'_eq_extractLsb' (show 24 = 16 + 8 from rfl),
    BitVec.extractLsb'_append_extractLsb'_eq_extractLsb' (show 16 = 8 + 8 from rfl),
    BitVec.extractLsb'_append_extractLsb'_eq_extractLsb' (show 8 = 0 + 8 from rfl)]
  exact BitVec.extractLsb'_eq_self

/-- Decoding the bytes of a word is decoding the word; the bytes after it are handed on. -/
theorem decode_bytesOfWord_append (w : Word) (rest : List Byte) :
    decode (bytesOfWord w ++ rest) = (decodeWord w).map (·, rest) := by
  conv_rhs => rw [← wordOfBytes_of_word w]
  rfl

/-- Settles O1: the word of an instruction matches the row of its mnemonic, and that row's fields of the word are
the instruction's operands. -/
theorem decodeInvertsEncode : Obligations.DecodeInvertsEncode := fun i rest hwf => by
  rw [encode, decode_bytesOfWord_append, decodeWord_encodeWord hwf]
  rfl

/-! ## Decoding and then encoding -/

/-- A top field whose high bits are known is those bits before the rest of it. -/
theorem append_low_of_and {m n : Nat} {x : BitVec (m + n)} {high : BitVec m}
    (h : x &&& (BitVec.allOnes m ++ 0#n) = high ++ 0#n) : high ++ x.extractLsb' 0 n = x := by
  have hx : x.extractLsb' n m ++ x.extractLsb' 0 n = x := BitVec.extractLsb'_append_extractLsb'
  rw [← hx, BitVec.and_append, BitVec.and_allOnes, append_eq_append_iff] at h
  rw [← h.1, hx]

/-- Bits of the top field are bits of the word. -/
theorem extract_csrOf (w : Word) (k n : Nat) : (csrOf w).extractLsb' k n = w.extractLsb' (20 + k) n := by
  conv_rhs => rw [← fields_of_word w]
  exact (extract_top_fields ..).symm

/-- A matched row gives the word back from its own `funct3` and opcode, if its top field is the word's. -/
theorem fields_of_matches {mn : Mnemonic} {mask pattern top : BitVec 12} {funct3 : BitVec 3}
    {opcode : BitVec 7} {w : Word}
    (h : OpcodeRow.matches ⟨mn, fields mask 0#5 0b111#3 0#5 0b1111111#7, fields pattern 0#5 funct3 0#5 opcode⟩ w =
      true) (htop : csrOf w &&& mask = pattern → top = csrOf w) :
    fields top (uimmOf w) funct3 (w.extractLsb' 7 5) opcode = w := by
  obtain ⟨hand, h3, hop⟩ := matches_fields_iff.mp h
  rw [htop hand, ← h3, ← hop, fields_of_word]

/-- A matched row of the CSR formats keeps every bit of the word. -/
theorem encodeCsr_of_matches {mn : Mnemonic} {funct3 : BitVec 3} {w : Word}
    (h : OpcodeRow.matches ⟨mn, fields 0#12 0#5 0b111#3 0#5 0b1111111#7, fields 0#12 0#5 funct3 0#5 0b1110011#7⟩ w =
      true) : encodeCsr (csrOf w) (uimmOf w) funct3 (rdOf w) = w :=
  fields_of_matches h fun _ => rfl

theorem encodeWord_of_matches_vsetvli {w : Word}
    (h : OpcodeRow.matches ⟨.vsetvli, 0x8000707f#32, 0x00007057#32⟩ w = true) :
    encodeWord (decodeFields .vsetvli w) = w :=
  fields_of_matches (mask := 0b1#1 ++ 0#11) (pattern := 0b0#1 ++ 0#11) h fun hand => by
    have htop := append_low_of_and (m := 1) (n := 11) (x := csrOf w) hand
    rwa [extract_csrOf] at htop

theorem encodeWord_of_matches_vsetivli {w : Word}
    (h : OpcodeRow.matches ⟨.vsetivli, 0xc000707f#32, 0xc0007057#32⟩ w = true) :
    encodeWord (decodeFields .vsetivli w) = w :=
  fields_of_matches (mask := 0b11#2 ++ 0#10) (pattern := 0b11#2 ++ 0#10) h fun hand => by
    have htop := append_low_of_and (m := 2) (n := 10) (x := csrOf w) hand
    rwa [extract_csrOf, ← BitVec.setWidth_eq (w.extractLsb' 20 10),
      ← BitVec.setWidth_setWidth_of_le (w.extractLsb' 20 10) (show 10 ≤ 11 by decide)] at htop

theorem encodeWord_of_matches_vsetvl {w : Word}
    (h : OpcodeRow.matches ⟨.vsetvl, 0xfe00707f#32, 0x80007057#32⟩ w = true) :
    encodeWord (decodeFields .vsetvl w) = w :=
  fields_of_matches (mask := 0b1111111#7 ++ 0#5) (pattern := 0b1000000#7 ++ 0#5) h fun hand => by
    have htop := append_low_of_and (m := 7) (n := 5) (x := csrOf w) hand
    rwa [extract_csrOf] at htop

/-- A `fence` word keeps `fm`, `pred` and `succ`, which make up its top field; the two ignored fields are
encoded as zero (R125). -/
theorem encodeWord_of_matches_fence {w : Word}
    (h : OpcodeRow.matches ⟨.fence, 0x0000707f#32, 0x0000000f#32⟩ w = true) :
    encodeWord (decodeFields .fence w) = w &&& 0xfff0707f#32 := by
  have hw : fields (csrOf w) (uimmOf w) 0b000#3 (w.extractLsb' 7 5) 0b0001111#7 = w :=
    fields_of_matches (mask := 0#12) (pattern := 0#12) h fun _ => rfl
  have htop : w.extractLsb' 28 4 ++ w.extractLsb' 24 4 ++ w.extractLsb' 20 4 = csrOf w := by
    rw [BitVec.extractLsb'_append_extractLsb'_eq_extractLsb' (show 28 = 24 + 4 from rfl),
      BitVec.extractLsb'_append_extractLsb'_eq_extractLsb' (show 24 = 20 + 4 from rfl)]
    rfl
  have hmask : (0xfff0707f#32 : Word) = fields (BitVec.allOnes 12) 0#5 0b111#3 0#5 0b1111111#7 := rfl
  conv_rhs => rw [← hw, hmask, fields_and, BitVec.and_allOnes, ← htop]
  rw [decodeFields, encodeWord_fence, fieldOfFenceSet_fenceSetOf, fieldOfFenceSet_fenceSetOf]

/-- Encoding the fields of a matched row gives the word back, but for the ignored fields of `fence`. -/
theorem encodeWord_of_matches {row : OpcodeRow} (hrow : row ∈ opcodeMap) {w : Word} (h : row.matches w = true) :
    encodeWord (decodeFields row.mnemonic w) = if row.mnemonic = .fence then w &&& 0xfff0707f#32 else w := by
  simp only [opcodeMap, List.mem_cons, List.not_mem_nil, or_false] at hrow
  obtain rfl | rfl | rfl | rfl | rfl | rfl | rfl | rfl | rfl | rfl | rfl | rfl | rfl := hrow
  iterate 6 exact encodeCsr_of_matches h
  · exact encodeWord_of_matches_vsetvli h
  · exact encodeWord_of_matches_vsetivli h
  · exact encodeWord_of_matches_vsetvl h
  · exact encodeWord_of_matches_fence h
  iterate 3 exact (OpcodeRow.matches_allOnes_iff.mp h).symm

/-- The decoder answers well-formed instructions alone: a zero-extended `zimm` has bit 10 clear (R127). -/
theorem wellFormed_decodeFields (m : Mnemonic) (w : Word) : (decodeFields m w).wellFormed = true := by
  cases m with
  | vsetivli => simp [decodeFields, Instr.wellFormed, zimm10Of]
  | _ => rfl

/-- Settles O5: the row that matched a word fixes every bit of it that its fields do not hold, but for the two
ignored fields of `fence`. -/
theorem encodeInvertsDecode : Obligations.EncodeInvertsDecode := by
  intro w i h
  obtain ⟨row, hrow, hw, rfl⟩ := decodeWord_eq_ok_iff.mp h
  rw [mnemonic_decodeFields]
  exact ⟨wellFormed_decodeFields row.mnemonic w, encodeWord_of_matches hrow hw⟩

/-- Settles O2: the seven words run through the opcode map. -/
theorem specWordsDecode : Obligations.SpecWordsDecode := ⟨rfl, rfl, rfl, rfl, rfl, rfl, rfl⟩

end Sys2Proof.Laws
end

section
/-! PROOFS. What each instruction reads and changes, from the cases of `exec` (10_state.md R20 to R27). -/

namespace Sys2Proof.Machine

open Sys2Proof.Safety

/-! ## The instructions by their operands -/

@[simp] theorem csrAddrOf_csrInstr (k : CsrKind) (rd : Reg) (a : CsrAddr) (src : CsrSource) :
    csrAddrOf (csrInstr k rd a src) = some a := by
  cases k <;> cases src <;> rfl

@[simp] theorem destination_csrInstr (k : CsrKind) (rd : Reg) (a : CsrAddr) (src : CsrSource) :
    destination (csrInstr k rd a src) = some rd := by
  cases k <;> cases src <;> rfl

/-- An instruction with `VSET` operands is one of the three. -/
theorem isVset_of_vsetOperands {i : Instr} {s : State} {o : VsetOperands} (h : vsetOperands i s = some o) :
    isVset i = true := by
  cases i with
  | vsetvli | vsetivli | vsetvl => rfl
  | _ => cases h

/-- Each of the three has `VSET` operands in every state. -/
theorem exists_vsetOperands {i : Instr} (hi : isVset i = true) (s : State) : ∃ o, vsetOperands i s = some o := by
  cases i with
  | vsetvli | vsetivli | vsetvl => exact ⟨_, rfl⟩
  | _ => cases hi

theorem destination_of_vsetOperands {i : Instr} {s : State} {o : VsetOperands} (h : vsetOperands i s = some o) :
    destination i = some o.rd := by
  cases i with
  | vsetvli | vsetivli | vsetvl => exact Option.some.inj h ▸ rfl
  | _ => cases h

/-! ## The store an access reaches -/

/-- An access that reaches no storage `r` leaves it alone. -/
theorem readStore_afterAccess_of_ne {home : CsrHome} {r : CsrStore} (h : home ≠ .storage r) (k : CsrKind)
    (src : Word) (reads writes : Bool) (s : State) :
    readStore r (afterAccess k home src reads writes s) = readStore r s := by
  cases home with
  | constant v => rw [afterAccess_constant]
  | storage q => exact readStore_afterAccess_other (fun e => h (congrArg _ e.symm)) k src reads writes s

/-- Only an HPM half has a read side effect. -/
theorem clears_eq_false_of_not_half {r : CsrStore} (hr : r.isHpmHalf = false) (s : State) :
    clears (.storage r) s = false := clears_eq_false_iff.mpr (.inl hr)

/-- An access that does not write leaves every store but the HPM halves alone. -/
theorem readStore_afterAccess_read_only {r : CsrStore} (hr : r.isHpmHalf = false) (k : CsrKind) (home : CsrHome)
    (src : Word) (reads : Bool) (s : State) :
    readStore r (afterAccess k home src reads false s) = readStore r s := by
  by_cases h : home = .storage r
  · subst h
    cases reads with
    | false => rfl
    | true => rw [afterAccess_read, readEffect_of_not_clears (clears_eq_false_of_not_half hr s)]
  · exact readStore_afterAccess_of_ne h k src reads false s

/-! ## One field at a time: what `exec` does to it -/

section ExecNext

variable {i : Instr} {s t : State} (h : exec i s = .next t)

include h

/-- No instruction changes `ret_pc`, memory, the parameters or the environment's inputs. -/
theorem exec_next_frame : t.retPc = s.retPc ∧ t.mem = s.mem ∧ t.params = s.params ∧ t.inputs = s.inputs ∧
    t.boundary = s.boundary := by
  obtain ⟨k, rd, a, src, home, -, -, -, -, rfl⟩ | ⟨o, -, -, -, rfl⟩ | ⟨_, _, _, -, -, rfl⟩ | ⟨-, -, -, rfl⟩ :=
    exec_next_cases h
  · obtain ⟨-, hret, -, hrest⟩ := csrEffect_frame k rd home (src.value s) (doRead k rd) (doWrite k src) s
    exact ⟨hret, hrest⟩
  · obtain ⟨-, hret, -, hrest⟩ := vsetEffect_frame o.form o.rd o.avl o.req s
    exact ⟨hret, hrest⟩
  · exact ⟨rfl, rfl, rfl, rfl, rfl⟩
  · exact ⟨rfl, rfl, rfl, rfl, rfl⟩

/-- Every instruction but `mret` advances `pc` by 4 (R23). -/
theorem pc_of_exec_next (hi : i ≠ .mret) : t.pc = s.pc + 4#32 := by
  obtain ⟨k, rd, a, src, home, -, -, -, -, rfl⟩ | ⟨o, -, -, -, rfl⟩ | ⟨_, _, _, -, -, rfl⟩ | ⟨rfl, -⟩ :=
    exec_next_cases h
  · exact (csrEffect_frame k rd home (src.value s) (doRead k rd) (doWrite k src) s).1
  · exact (vsetEffect_frame o.form o.rd o.avl o.req s).1
  · exact advancePc_pc s
  · exact absurd rfl hi

/-- A register that is not the destination is left alone. -/
theorem readReg_of_exec_next {q : Reg} (hq : destination i ≠ some q) : readReg t q = readReg s q := by
  obtain ⟨k, rd, a, src, home, rfl, -, -, -, rfl⟩ | ⟨o, ho, -, -, rfl⟩ | ⟨_, _, _, -, -, rfl⟩ | ⟨-, -, -, rfl⟩ :=
    exec_next_cases h
  · rw [destination_csrInstr] at hq
    exact readReg_csrEffect_other (fun e => hq (congrArg some e.symm)) ..
  · rw [destination_of_vsetOperands ho] at hq
    exact readReg_vsetEffect_other (fun e => hq (congrArg some e.symm)) ..
  · exact readReg_advancePc q s
  · exact readReg_intReturn q s

/-- A store that the instruction does not address is left alone, but for `vl` and `vtype`. -/
theorem readStore_of_exec_next {r : CsrStore} (hr : ¬ addressesStore i r)
    (hv : ¬ (isVset i = true ∧ (r = .vl ∨ r = .vtype))) : readStore r t = readStore r s := by
  obtain ⟨k, rd, a, src, home, rfl, hhome, -, -, rfl⟩ | ⟨o, ho, -, -, rfl⟩ | ⟨_, _, _, -, -, rfl⟩ |
    ⟨-, -, -, rfl⟩ := exec_next_cases h
  · have hne : home ≠ .storage r := fun e => hr ⟨a, csrAddrOf_csrInstr k rd a src, hhome.trans (congrArg some e)⟩
    rw [readStore_csrEffect, readStore_afterAccess_of_ne hne]
  · have hvl := isVset_of_vsetOperands ho
    exact readStore_vsetEffect_other (fun e => hv ⟨hvl, .inl e⟩) (fun e => hv ⟨hvl, .inr e⟩) ..
  · exact readStore_advancePc r s
  · exact readStore_intReturn r s

/-- Inside a handler no instruction changes a store but the HPM halves: the writes are stopped (R153, R171). -/
theorem readStore_of_exec_next_in_handler (hin : s.inHandler = true) {r : CsrStore} (hr : r.isHpmHalf = false) :
    readStore r t = readStore r s := by
  obtain ⟨k, rd, a, src, home, -, -, hwrite, -, rfl⟩ | ⟨o, -, -, hout, -⟩ | ⟨_, _, _, -, -, rfl⟩ |
    ⟨-, -, -, rfl⟩ := exec_next_cases h
  · have hnot : doWrite k src = false := Bool.eq_false_iff.mpr fun hw =>
      Bool.false_ne_true ((hwrite hw).symm.trans hin)
    rw [readStore_csrEffect, hnot, readStore_afterAccess_read_only hr]
  · exact absurd (hout.symm.trans hin) Bool.false_ne_true
  · exact readStore_advancePc r s
  · exact readStore_intReturn r s

end ExecNext

/-- `mret` completes in a handler alone, as the return of R199. -/
theorem exec_mret_next {s t : State} (h : exec .mret s = .next t) : s.inHandler = true ∧ t = intReturn s := by
  obtain ⟨-, hin, ht⟩ := execMret_next h
  exact ⟨hin, ht⟩

/-! ## Bits outside `WMASK` (R26, R143) -/

/-- A masked write keeps the bits outside the mask. -/
theorem masked_and_not_wmask (p : Params) (r : CsrStore) (old v : Word) :
    masked p r old v &&& ~~~(wmask p r) = old &&& ~~~(wmask p r) := by
  ext k hk
  simp only [masked, BitVec.getElem_and, BitVec.getElem_or, BitVec.getElem_not]
  cases (wmask p r)[k] <;> simp

/-- The read side effect reaches HPM halves alone, of which every bit is writable. -/
theorem readStore_readEffect_and_not_wmask (r : CsrStore) (s : State) :
    readStore r (readEffect (.storage r) s) &&& ~~~(wmask s.params r) =
      readStore r s &&& ~~~(wmask s.params r) := by
  cases hr : r.isHpmHalf with
  | false => rw [readEffect_of_not_clears (clears_eq_false_of_not_half hr s)]
  | true =>
    have hmask : wmask s.params r = BitVec.allOnes 32 := by
      cases r with
      | hpmLow | hpmHigh => rfl
      | _ => cases hr
    rw [hmask, BitVec.not_allOnes, BitVec.and_zero, BitVec.and_zero]

/-- No access changes a bit outside the mask of its storage. -/
theorem readStore_afterAccess_and_not_wmask (k : CsrKind) (home : CsrHome) (src : Word) (reads writes : Bool)
    (s : State) (r : CsrStore) :
    readStore r (afterAccess k home src reads writes s) &&& ~~~(wmask s.params r) =
      readStore r s &&& ~~~(wmask s.params r) := by
  by_cases hhome : home = .storage r
  · subst hhome
    have hread := readStore_readEffect_and_not_wmask r s
    obtain ⟨-, -, -, -, -, hparams, -, -⟩ := readEffect_frame (.storage r) s
    cases reads <;> cases writes <;>
      simp only [afterAccess, if_true, if_false, Bool.false_eq_true, csrWrite_storage,
        readStore_writeStore_same, masked_and_not_wmask, hparams, hread]
  · rw [readStore_afterAccess_of_ne hhome]

/-! ## Bit 64 of the HPM counters (R68, R142) -/

/-- An HPM half is a half of one of the two counters. -/
theorem exists_isHalfOf_of_isHpmHalf {r : CsrStore} (hr : r.isHpmHalf = true) : ∃ n, isHalfOf n r := by
  cases r with
  | hpmLow n => exact ⟨n, .inl rfl⟩
  | hpmHigh n => exact ⟨n, .inr rfl⟩
  | _ => exact nomatch hr

/-- The read side effect changes bit 64 of a counter only where it clears a half of it. -/
theorem bit64_readEffect {home : CsrHome} {s : State} {n : HpmId}
    (h : (hpm n (readEffect home s)).bit64 ≠ (hpm n s).bit64) :
    (hpm n (readEffect home s)).bit64 = false ∧ clears home s = true ∧ ∃ r, home = .storage r ∧ isHalfOf n r := by
  have hclears : clears home s = true := by
    by_contra hnot
    exact h (by rw [readEffect_of_not_clears (Bool.eq_false_iff.mpr hnot)])
  cases home with
  | constant v => exact nomatch hclears
  | storage r =>
    obtain ⟨m, hm⟩ := exists_isHalfOf_of_isHpmHalf (Bool.and_eq_true_iff.mp hclears).1
    rw [readEffect_of_clears hclears, clearBit64_of_isHalfOf hm] at h ⊢
    have hn : n = m := by
      by_contra hne
      exact h (by rw [hpm_setHpm_other hne, writeStore_bit64])
    subst hn
    exact ⟨by rw [hpm_setHpm_same], hclears, r, rfl, hm⟩

/-- An access changes bit 64 only through its read side effect: a write keeps it (D17). -/
theorem bit64_afterAccess (k : CsrKind) (home : CsrHome) (src : Word) (reads writes : Bool) (s : State) (n : HpmId) :
    (hpm n (afterAccess k home src reads writes s)).bit64 =
      (hpm n (if reads then readEffect home s else s)).bit64 := by
  obtain ⟨-, -, -, -, -, -, -, -, hwrite⟩ :=
    csrWrite_frame home (k.combine (if reads then readValue home s else 0#32) src)
      (if reads then readEffect home s else s)
  cases writes with
  | false => rfl
  | true => exact hwrite n

/-- A CSR instruction that reads and does not write is a pure read. -/
theorem csrInstr_mem_pureReads {k : CsrKind} {rd : Reg} {a : CsrAddr} {src : CsrSource}
    (h : doWrite k src = false) : csrInstr k rd a src ∈ pureReads rd a := by
  have hzero : k ≠ .write ∧ src.isZeroField = true := by
    cases k with
    | write => exact nomatch h
    | set | clear => simpa [doWrite] using h
  obtain ⟨hk, hz⟩ := hzero
  cases src with
  | reg r =>
    obtain rfl : r = 0 := beq_iff_eq.mp hz
    cases k with
    | write => exact absurd rfl hk
    | set | clear => simp [csrInstr, pureReads]
  | imm u =>
    obtain rfl : u = 0#5 := beq_iff_eq.mp hz
    cases k with
    | write => exact absurd rfl hk
    | set | clear => simp [csrInstr, pureReads]

/-! ## The obligations -/

/-- Settles O25: the frame of `exec` on the stores, read backwards. -/
theorem csrsChangeOnlyByTheirInstructions : Obligations.CsrsChangeOnlyByTheirInstructions := by
  intro i s t r h hne
  by_contra hnone
  obtain ⟨haddr, hvset⟩ := not_or.mp hnone
  exact hne (readStore_of_exec_next h haddr hvset)

/-- Settles O26: the frame of `exec` on the registers; `x0` has no storage. -/
theorem registersChangeOnlyAtDestination : Obligations.RegistersChangeOnlyAtDestination := fun _ _ t _ h =>
  ⟨readReg_zero t, fun hne => not_not.mp fun hdest => hne (readReg_of_exec_next h hdest)⟩

/-- Settles O27: `mret` is the one instruction that does not advance `pc`. -/
theorem pcAdvancesByFourUnlessMret : Obligations.PcAdvancesByFourUnlessMret := by
  refine fun i s t h => ⟨fun hi => ?_, fun hi => ?_⟩
  · rw [pc_of_exec_next h hi, BitVec.toNat_add]
    rfl
  · subst hi
    obtain ⟨-, rfl⟩ := exec_mret_next h
    exact intReturn_pc s

/-- Settles O28: only CSR instructions write storage, and an access keeps the bits outside the mask. -/
theorem bitsOutsideWmaskAreKept : Obligations.BitsOutsideWmaskAreKept := by
  refine ⟨fun i s t r h hvset => ?_, fun p => ?_⟩
  · obtain ⟨k, rd, a, src, home, -, -, -, -, rfl⟩ | ⟨o, ho, -⟩ | ⟨_, _, _, -, -, rfl⟩ | ⟨-, -, -, rfl⟩ :=
      exec_next_cases h
    · rw [readStore_csrEffect]
      exact readStore_afterAccess_and_not_wmask ..
    · exact absurd ((isVset_of_vsetOperands ho).symm.trans hvset) Bool.false_ne_true.symm
    · rw [readStore_advancePc]
    · rw [readStore_intReturn]
  · simp [counterStores, wmask, allBits]

/-- Settles O29: bit 64 changes by the read side effect alone, which an instruction that also writes does not
reach: the check of R154 stops it. -/
theorem bit64ClearsOnlyByClearingRead : Obligations.Bit64ClearsOnlyByClearingRead := by
  intro i s t n h hne
  obtain ⟨k, rd, a, src, home, rfl, hhome, -, hpure, rfl⟩ | ⟨o, -, -, -, rfl⟩ | ⟨_, _, _, -, -, rfl⟩ |
    ⟨-, -, -, rfl⟩ := exec_next_cases h
  · rw [hpm_csrEffect, bit64_afterAccess] at hne ⊢
    cases hread : doRead k rd with
    | false => simp [hread] at hne
    | true =>
      rw [hread, if_pos rfl] at hne
      obtain ⟨hzero, hclears, r, rfl, hhalf⟩ := bit64_readEffect hne
      have hwrite : doWrite k src = false := Bool.eq_false_iff.mpr fun hw =>
        Bool.false_ne_true ((hpure hread hw).symm.trans hclears)
      refine ⟨hzero, (Bool.and_eq_true_iff.mp hclears).2, rd, a, csrInstr_mem_pureReads hwrite, ?_⟩
      obtain rfl | rfl := hhalf
      · exact .inl hhome
      · exact .inr hhome
  · exact absurd (by rw [hpm_vsetEffect]) hne
  · exact absurd (by rw [hpm_advancePc]) hne
  · exact absurd (congrArg _ (hpm_congr rfl rfl n)) hne

end Sys2Proof.Machine
end

section
/-! PROOFS. A CSR that an instruction does not consult does not influence it (10_state.md R45, R63, R74, R77): a write
to its storage commutes with the instruction, and where no agent consults it either, with the step. -/

namespace Sys2Proof.Machine

open Sys2Proof.Safety

/-! ## The state by its reads -/

/-- The CSR file is what its stores read. -/
theorem csr_eq_of_readStore {s t : State} (h : ∀ r, readStore r t = readStore r s) : t.csr = s.csr := by
  have hvec : t.csr.ttCfgSstatus = s.csr.ttCfgSstatus :=
    Vector.ext fun j hj => h (.ttCfgSstatus ⟨j, hj⟩)
  exact (CsrFile.mk.injEq ..).mpr ⟨h .fcsr, h .vxsat, h .vxrm, h .mcountinhibit, h (.mhpmevent .three),
    h (.mhpmevent .four), h .cfg0, h .pmacfg0, h .pmacfg1, h .cfg1, h .hwaMask, h .hwaCfg, h .vgsrc, h .ttCfgQstatus,
    h .ttCfgBstatus, hvec, h .intpRestorePc, h .vl, h .vtype, h .vlenb⟩

/-- An HPM counter is its two halves and bit 64. -/
theorem hpm_eq_of_readStore {s t : State} (h : ∀ r, readStore r t = readStore r s) {n : HpmId}
    (hbit : (hpm n t).bit64 = (hpm n s).bit64) : hpm n t = hpm n s := by
  have hlow : (hpm n t).low = (hpm n s).low := halves_ext (h (.hpmLow n)) (h (.hpmHigh n))
  exact (HpmCounter.mk.injEq ..).mpr ⟨hbit, hlow⟩

/-- The fields that no CSR shows. -/
def sameHidden (s t : State) : Prop :=
  t.regs = s.regs ∧ t.pc = s.pc ∧ t.retPc = s.retPc ∧ t.inHandler = s.inHandler ∧ t.mem = s.mem ∧
    t.params = s.params ∧ t.inputs = s.inputs ∧ t.boundary = s.boundary

/-- Two states are equal when every store, bit 64 of both counters and the fields no CSR shows are. -/
theorem state_ext {s t : State} (hstore : ∀ r, readStore r t = readStore r s) (hbit : sameBit64 s t)
    (hhidden : sameHidden s t) : t = s := by
  have hcsr := csr_eq_of_readStore hstore
  have hcyc : t.cyc = s.cyc := halves_ext (hstore .cycLow) (hstore .cycHigh)
  have hiret : t.iret = s.iret := halves_ext (hstore .iretLow) (hstore .iretHigh)
  have h₃ : t.hpm3 = s.hpm3 := hpm_eq_of_readStore hstore (hbit .three)
  have h₄ : t.hpm4 = s.hpm4 := hpm_eq_of_readStore hstore (hbit .four)
  obtain ⟨hregs, hpc, hret, hin, hmem, hparams, hinputs, hboundary⟩ := hhidden
  exact (State.mk.injEq ..).mpr ⟨hregs, hpc, hcsr, hcyc, hiret, h₃, h₄, hret, hin, hmem, hparams, hinputs, hboundary⟩

/-! ## Writes to two stores commute -/

theorem writeStore_comm {q r : CsrStore} (h : q ≠ r) (u v : Word) (s : State) :
    writeStore q u (writeStore r v s) = writeStore r v (writeStore q u s) := by
  refine state_ext (fun p => ?_) (fun n => by simp) (by simp [sameHidden])
  by_cases hq : p = q
  · subst hq
    rw [readStore_writeStore_same, readStore_writeStore_other h, readStore_writeStore_same]
  · by_cases hr : p = r
    · subst hr
      rw [readStore_writeStore_other hq, readStore_writeStore_same, readStore_writeStore_same]
    · rw [readStore_writeStore_other hq, readStore_writeStore_other hr, readStore_writeStore_other hr,
        readStore_writeStore_other hq]

/-- A store write commutes with a change that touches only fields no CSR shows. -/
theorem comm_writeStore {f : State → State} (hstore : ∀ p t, readStore p (f t) = readStore p t)
    (hbit : ∀ t, sameBit64 t (f t)) {r : CsrStore} {v : Word} {s : State}
    (hhidden : sameHidden (f s) (f (writeStore r v s))) : f (writeStore r v s) = writeStore r v (f s) := by
  refine state_ext (fun p => ?_) (fun n => ?_) ?_
  · rw [hstore]
    by_cases hp : p = r
    · subst hp
      rw [readStore_writeStore_same, readStore_writeStore_same]
    · rw [readStore_writeStore_other hp, readStore_writeStore_other hp, hstore]
  · rw [hbit, writeStore_bit64, writeStore_bit64, hbit]
  · simpa [sameHidden] using hhidden

theorem advancePc_writeStore (r : CsrStore) (v : Word) (s : State) :
    advancePc (writeStore r v s) = writeStore r v (advancePc s) :=
  comm_writeStore readStore_advancePc (fun t n => by rw [hpm_advancePc]) (by simp [sameHidden])

theorem writeReg_writeStore (q : Reg) (w : Word) (r : CsrStore) (v : Word) (s : State) :
    writeReg q w (writeStore r v s) = writeStore r v (writeReg q w s) := by
  have hregs : (writeReg q w (writeStore r v s)).regs = (writeReg q w s).regs := by
    unfold writeReg
    split <;> simp
  exact comm_writeStore (fun p t => readStore_writeReg p q w t) (fun t n => by rw [hpm_writeReg])
    (by simp [sameHidden, hregs])

theorem intReturn_writeStore (r : CsrStore) (v : Word) (s : State) :
    intReturn (writeStore r v s) = writeStore r v (intReturn s) :=
  comm_writeStore readStore_intReturn (fun t n => congrArg _ (hpm_congr rfl rfl n)) (by simp [sameHidden])

theorem answerInterrupt_writeStore (r : CsrStore) (v : Word) (s : State) :
    answerInterrupt (writeStore r v s) = writeStore r v (answerInterrupt s) := by
  have hinputs : (answerInterrupt (writeStore r v s)).inputs = (answerInterrupt s).inputs := by
    unfold answerInterrupt
    rw [writeStore_inputs]
    cases hlist : s.inputs <;> simp [hlist]
  exact comm_writeStore readStore_answerInterrupt (fun t n => by rw [hpm_answerInterrupt])
    (by simp [sameHidden, hinputs])

theorem passBoundary_writeStore (r : CsrStore) (v : Word) (s : State) :
    passBoundary (writeStore r v s) = writeStore r v (passBoundary s) :=
  comm_writeStore (f := passBoundary) (fun p _ => readStore_congr rfl rfl rfl rfl rfl p)
    (fun t n => congrArg _ (hpm_congr rfl rfl n)) (by simp [sameHidden])

/-- Bit 64 after a clear: of the counter whose half was read it is clear, of the other as before. -/
theorem bit64_clearBit64 {m : HpmId} {q : CsrStore} (hq : isHalfOf m q) (n : HpmId) (s : State) :
    (hpm n (clearBit64 q s)).bit64 = if n = m then false else (hpm n s).bit64 := by
  rw [clearBit64_of_isHalfOf hq]
  split
  · next h => rw [h, hpm_setHpm_same]
  · next h => rw [hpm_setHpm_other h]

theorem clearBit64_writeStore {m : HpmId} {q : CsrStore} (hq : isHalfOf m q) (r : CsrStore) (v : Word) (s : State) :
    clearBit64 q (writeStore r v s) = writeStore r v (clearBit64 q s) := by
  refine state_ext (fun p => ?_) (fun n => ?_) ?_
  · rw [readStore_clearBit64]
    by_cases hp : p = r
    · subst hp
      rw [readStore_writeStore_same, readStore_writeStore_same]
    · rw [readStore_writeStore_other hp, readStore_writeStore_other hp, readStore_clearBit64]
  · rw [writeStore_bit64, bit64_clearBit64 hq, bit64_clearBit64 hq, writeStore_bit64]
  · simp [sameHidden, clearBit64_of_isHalfOf hq]

/-! ## What an instruction consults -/

/-- What the instructions look at outside the CSR they address: two fields of `cfg0`, and `vl` and `vtype`. -/
structure Unconsulted (r : CsrStore) (v : Word) (s : State) : Prop where
  ne_vl : r ≠ .vl
  ne_vtype : r ≠ .vtype
  unknownSetting : Cfg0.unknownSetting (writeStore r v s).csr.cfg0 = Cfg0.unknownSetting s.csr.cfg0
  pmcClrOnRd : Cfg0.pmcClrOnRd (writeStore r v s).csr.cfg0 = Cfg0.pmcClrOnRd s.csr.cfg0

@[simp] theorem value_writeStore (src : CsrSource) (r : CsrStore) (v : Word) (s : State) :
    src.value (writeStore r v s) = src.value s := by
  cases src with
  | reg q => exact readReg_writeStore q r v s
  | imm u => rfl

section Commutes

variable {r : CsrStore} {v : Word} {s : State} {home : CsrHome}

theorem readValue_writeStore (hne : home ≠ .storage r) : readValue home (writeStore r v s) = readValue home s := by
  cases home with
  | constant w => rfl
  | storage q => exact readStore_writeStore_other (fun e => hne (congrArg _ e)) v s

theorem csrWrite_writeStore (hne : home ≠ .storage r) (w : Word) :
    csrWrite home w (writeStore r v s) = writeStore r v (csrWrite home w s) := by
  cases home with
  | constant w => rfl
  | storage q =>
    have hqr : q ≠ r := fun e => hne (congrArg _ e)
    simp only [csrWrite_storage, readStore_writeStore_other hqr, writeStore_params, writeStore_comm hqr]

theorem readEffect_writeStore (hne : home ≠ .storage r)
    (hclr : Cfg0.pmcClrOnRd (writeStore r v s).csr.cfg0 = Cfg0.pmcClrOnRd s.csr.cfg0) :
    readEffect home (writeStore r v s) = writeStore r v (readEffect home s) := by
  have hsame : clears home (writeStore r v s) = clears home s := congrArg (home.isHpmHalf && ·) hclr
  cases hclears : clears home s with
  | false => rw [readEffect_of_not_clears hclears, readEffect_of_not_clears (hsame.trans hclears)]
  | true =>
    cases home with
    | constant w => rfl
    | storage q =>
      obtain ⟨m, hq⟩ := exists_isHalfOf_of_isHpmHalf (Bool.and_eq_true_iff.mp hclears).1
      rw [readEffect_of_clears hclears, readEffect_of_clears (hsame.trans hclears),
        writeStore_comm (fun e => hne (congrArg _ e)), clearBit64_writeStore hq]

theorem csrEffect_writeStore (hne : home ≠ .storage r)
    (hclr : Cfg0.pmcClrOnRd (writeStore r v s).csr.cfg0 = Cfg0.pmcClrOnRd s.csr.cfg0)
    (k : CsrKind) (rd : Reg) (src : Word) (reads writes : Bool) :
    csrEffect k rd home src reads writes (writeStore r v s) =
      writeStore r v (csrEffect k rd home src reads writes s) := by
  simp only [csrEffect, readValue_writeStore hne, readEffect_writeStore hne hclr]
  cases reads <;> cases writes <;>
    simp only [if_true, if_false, Bool.false_eq_true, csrWrite_writeStore hne, writeReg_writeStore,
      advancePc_writeStore]

theorem csrOp_writeStore {a : CsrAddr} (hne : csrHome a ≠ some (.storage r))
    (hclr : Cfg0.pmcClrOnRd (writeStore r v s).csr.cfg0 = Cfg0.pmcClrOnRd s.csr.cfg0)
    (k : CsrKind) (rd : Reg) (src : CsrSource) :
    csrOp k rd a src (writeStore r v s) = mapNext (writeStore r v) (csrOp k rd a src s) := by
  unfold csrOp
  cases hhome : csrHome a with
  | none => rfl
  | some home =>
    have hne' : home ≠ .storage r := fun e => hne (hhome.trans (congrArg some e))
    simp only [writeStore_inHandler, writeStore_params, hclr, value_writeStore, csrEffect_writeStore hne' hclr]
    split_ifs <;> rfl

/-- The pair `VSET` answers is written to `vl` and `vtype` as to any store. -/
theorem vsetEffect_eq (form : VsetForm) (rd : Reg) (avl : Avl) (req : Word) (s : State) :
    vsetEffect form rd avl req s =
      let answer := Config.vset form avl req s.csr.vl s.csr.vtype
      advancePc (writeReg rd answer.1 (writeStore .vtype answer.2 (writeStore .vl answer.1 s))) := rfl

theorem vsetOp_writeStore (hr : Unconsulted r v s) (form : VsetForm) (rd : Reg)
    (avl : Avl) (req : Word) :
    vsetOp form rd avl req (writeStore r v s) = mapNext (writeStore r v) (vsetOp form rd avl req s) := by
  have heffect : vsetEffect form rd avl req (writeStore r v s) = writeStore r v (vsetEffect form rd avl req s) := by
    have hvl : (writeStore r v s).csr.vl = s.csr.vl := readStore_writeStore_other hr.ne_vl.symm v s
    have hvtype : (writeStore r v s).csr.vtype = s.csr.vtype := readStore_writeStore_other hr.ne_vtype.symm v s
    simp only [vsetEffect_eq, hvl, hvtype, writeStore_comm hr.ne_vl.symm, writeStore_comm hr.ne_vtype.symm,
      writeReg_writeStore, advancePc_writeStore]
  unfold vsetOp
  rw [hr.unknownSetting, writeStore_inHandler, heffect]
  split_ifs <;> rfl

/-- An instruction that does not address the CSR commutes with a write to it, if it does not consult it. -/
theorem exec_writeStore (hr : Unconsulted r v s) {i : Instr} (hi : ¬ addressesStore i r) :
    exec i (writeStore r v s) = mapNext (writeStore r v) (exec i s) := by
  have hcsr : ∀ k rd a src, i = csrInstr k rd a src →
      exec i (writeStore r v s) = mapNext (writeStore r v) (exec i s) := by
    rintro k rd a src rfl
    rw [exec_csrInstr, exec_csrInstr]
    exact csrOp_writeStore (fun e => hi ⟨a, csrAddrOf_csrInstr k rd a src, e⟩) hr.pmcClrOnRd k rd src
  have hvset : ∀ o, vsetOperands i s = some o → vsetOperands i (writeStore r v s) = some o →
      exec i (writeStore r v s) = mapNext (writeStore r v) (exec i s) := by
    intro o ho ho'
    rw [exec_vset ho, exec_vset ho']
    exact vsetOp_writeStore hr o.form o.rd o.avl o.req
  cases i with
  | csrrw rd a q => exact hcsr .write rd a (.reg q) rfl
  | csrrs rd a q => exact hcsr .set rd a (.reg q) rfl
  | csrrc rd a q => exact hcsr .clear rd a (.reg q) rfl
  | csrrwi rd a u => exact hcsr .write rd a (.imm u) rfl
  | csrrsi rd a u => exact hcsr .set rd a (.imm u) rfl
  | csrrci rd a u => exact hcsr .clear rd a (.imm u) rfl
  | vsetvli | vsetivli | vsetvl => exact hvset _ rfl (by simp [vsetOperands, avlOfReg])
  | fence fm p q =>
    change execFence fm p q _ = mapNext _ (execFence fm p q s)
    unfold execFence
    rw [hr.unknownSetting, advancePc_writeStore]
    split_ifs <;> rfl
  | ecall | ebreak => rfl
  | mret =>
    change execMret _ = mapNext _ (execMret s)
    unfold execMret
    rw [hr.unknownSetting, writeStore_inHandler, intReturn_writeStore]
    split_ifs <;> rfl

end Commutes

/-- A store that is none of `cfg0`, `vl` and `vtype` is consulted by no instruction. -/
theorem unconsulted_of_ne {r : CsrStore} (hc : r ≠ .cfg0) (hl : r ≠ .vl) (ht : r ≠ .vtype) (v : Word) (s : State) :
    Unconsulted r v s := by
  have hcfg : (writeStore r v s).csr.cfg0 = s.csr.cfg0 := readStore_writeStore_other hc.symm v s
  exact ⟨hl, ht, congrArg _ hcfg, congrArg _ hcfg⟩

/-- Settles O23: none of the twelve is `cfg0`, `vl` or `vtype`, the stores that other instructions consult. -/
theorem unconsultedCsrsDoNotInterfere : Obligations.UnconsultedCsrsDoNotInterfere := by
  intro r hr i v s hi
  have hne : r ≠ .cfg0 ∧ r ≠ .vl ∧ r ≠ .vtype := by
    refine ⟨?_, ?_, ?_⟩ <;> rintro rfl <;> exact absurd hr (by decide)
  obtain ⟨hc, hl, ht⟩ := hne
  exact exec_writeStore (unconsulted_of_ne hc hl ht v s) hi

/-! ## The reserved bits of `cfg0` (R45) -/

/-- Two words that agree under a mask agree at each bit of it. -/
theorem getLsbD_eq_of_and_eq {c d mask : Word} (h : c &&& mask = d &&& mask) {n : Nat}
    (hn : mask.getLsbD n = true) : c.getLsbD n = d.getLsbD n := by
  simpa [hn] using congrArg (·.getLsbD n) h

section ReservedBits

variable {c d : Word} (h : c &&& ~~~0x02e00060#32 = d &&& ~~~0x02e00060#32)

include h

theorem unknownSetting_of_agree : Cfg0.unknownSetting c = Cfg0.unknownSetting d := by
  have hbit {n : Nat} (hn : (~~~0x02e00060#32 : Word).getLsbD n = true) := getLsbD_eq_of_and_eq h hn
  have hsel : Cfg0.bpHistSel c = Cfg0.bpHistSel d := by
    refine BitVec.eq_of_getLsbD_eq fun n hn => ?_
    have hin : (~~~0x02e00060#32 : Word).getLsbD (26 + n) = true := by
      interval_cases n <;> rfl
    simp only [Cfg0.bpHistSel, BitVec.getLsbD_extractLsb', hbit hin]
  simp only [Cfg0.unknownSetting, Cfg0.disLdBufByp, Cfg0.disableDataEcc, Cfg0.disVec128b, Cfg0.disMultiMemLdOps,
    Cfg0.enRespOrderFifo, hsel, hbit (n := 0) rfl, hbit (n := 4) rfl, hbit (n := 11) rfl, hbit (n := 19) rfl,
    hbit (n := 28) rfl]

theorem unsynchronised_of_agree : Cfg0.unsynchronised c = Cfg0.unsynchronised d := by
  simp only [Cfg0.unsynchronised, Cfg0.disCsrSync, Cfg0.syncAllOps, getLsbD_eq_of_and_eq h (n := 10) rfl,
    getLsbD_eq_of_and_eq h (n := 9) rfl]

theorem pmcClrOnRd_of_agree : Cfg0.pmcClrOnRd c = Cfg0.pmcClrOnRd d := getLsbD_eq_of_and_eq h rfl

theorem disPmcWrapArnd_of_agree : Cfg0.disPmcWrapArnd c = Cfg0.disPmcWrapArnd d := getLsbD_eq_of_and_eq h rfl

theorem disTTStatusReg_of_agree : Cfg0.disTTStatusReg c = Cfg0.disTTStatusReg d := getLsbD_eq_of_and_eq h rfl

theorem unconsulted_cfg0_of_agree {s : State} (hd : s.csr.cfg0 = d) : Unconsulted .cfg0 c s :=
  ⟨nofun, nofun, hd ▸ unknownSetting_of_agree h, hd ▸ pmcClrOnRd_of_agree h⟩

end ReservedBits

/-- An event consults `mcountinhibit` and `DisPmcWrapArnd` alone. -/
theorem hpmEventStep_congr {csr csr' : CsrFile} (hm : csr'.mcountinhibit = csr.mcountinhibit)
    (hw : Cfg0.disPmcWrapArnd csr'.cfg0 = Cfg0.disPmcWrapArnd csr.cfg0) (n : HpmId) (draw : Bool) (h : HpmCounter) :
    hpmEventStep csr' n draw h = hpmEventStep csr n draw h := by
  simp only [hpmEventStep, hm, hw]

theorem hpmEvents_congr {csr csr' : CsrFile} (hm : csr'.mcountinhibit = csr.mcountinhibit)
    (hw : Cfg0.disPmcWrapArnd csr'.cfg0 = Cfg0.disPmcWrapArnd csr.cfg0) (n : HpmId) (draw : Nat → Bool) (k : Nat)
    (h : HpmCounter) : hpmEvents csr' n draw k h = hpmEvents csr n draw k h := by
  induction k generalizing h with
  | zero => rfl
  | succ k ih => simp only [hpmEvents, hpmEventStep_congr hm hw, ih]

section ReservedStep

variable {c : Word} {s : State} (h : c &&& ~~~0x02e00060#32 = s.csr.cfg0 &&& ~~~0x02e00060#32)

include h

theorem statusFeed_writeStore_cfg0 (k : CoreKind) (b : Boundary) :
    statusFeed k b { s.csr with cfg0 := c } = { statusFeed k b s.csr with cfg0 := c } := by
  simp only [statusFeed, disTTStatusReg_of_agree h]
  split_ifs <;> rfl

theorem hpmAfter_writeStore_cfg0 (b : Boundary) (number : Nat) (n : HpmId) (counter : HpmCounter) :
    hpmAfter b number { s.csr with cfg0 := c } n counter = hpmAfter b number s.csr n counter := by
  have hsel : hpmSelector { s.csr with cfg0 := c } n = hpmSelector s.csr n := by cases n <;> rfl
  rw [hpmAfter, hsel]
  exact hpmEvents_congr (csr := s.csr) (csr' := { s.csr with cfg0 := c }) rfl (disPmcWrapArnd_of_agree h) n _ _
    counter

/-- The agents of a boundary do not consult the reserved bits. -/
theorem applyBoundary_writeStore_cfg0 (b : Boundary) :
    applyBoundary b (writeStore .cfg0 c s) = writeStore .cfg0 c (applyBoundary b s) := by
  change { s with
    cyc := _, iret := _
    hpm3 := hpmAfter b s.boundary { s.csr with cfg0 := c } .three s.hpm3
    hpm4 := hpmAfter b s.boundary { s.csr with cfg0 := c } .four s.hpm4
    csr := statusFeed s.params.coreKind b { s.csr with cfg0 := c } } = _
  rw [hpmAfter_writeStore_cfg0 h, hpmAfter_writeStore_cfg0 h, statusFeed_writeStore_cfg0 h]
  rfl

theorem interruptStep_writeStore_cfg0 :
    interruptStep (writeStore .cfg0 c s) = mapNext (writeStore .cfg0 c) (interruptStep s) := by
  have hentry : intEntry (writeStore .cfg0 c s) = writeStore .cfg0 c (intEntry s) := rfl
  have hknown : Cfg0.unknownSetting (writeStore .cfg0 c s).csr.cfg0 = Cfg0.unknownSetting s.csr.cfg0 :=
    unknownSetting_of_agree h
  unfold interruptStep
  rw [hknown, writeStore_inHandler, hentry, answerInterrupt_writeStore]
  split_ifs <;> rfl

theorem instructionStep_writeStore_cfg0 (hfetch : ∀ i, fetchInstr s = .ok i → ¬ addressesStore i .cfg0) :
    instructionStep (writeStore .cfg0 c s) = mapNext (writeStore .cfg0 c) (instructionStep s) := by
  have hsame : fetchInstr (writeStore .cfg0 c s) = fetchInstr s := fetchInstr_congr rfl rfl
  unfold instructionStep
  rw [hsame]
  cases hi : fetchInstr s with
  | error f => rfl
  | ok i => exact exec_writeStore (unconsulted_cfg0_of_agree h rfl) (hfetch i hi)

end ReservedStep

/-- Applying one function to the next state and then another, where they commute. -/
theorem mapNext_comm {f g : State → State} (h : ∀ s, f (g s) = g (f s)) (r : Result) :
    mapNext f (mapNext g r) = mapNext g (mapNext f r) := by
  cases r with
  | next s => exact congrArg _ (h s)
  | fault _ | refused _ => rfl

/-- Settles O24: every part of the step commutes with a change of the reserved bits: no agent of the boundary, no
check and no instruction off `cfg0` reads one of them. -/
theorem reservedCfg0BitsHaveNoEffect : Obligations.ReservedCfg0BitsHaveNoEffect := by
  intro c s h hfetch
  have hsync : Cfg0.unsynchronised (writeStore .cfg0 c s).csr.cfg0 = Cfg0.unsynchronised s.csr.cfg0 :=
    unsynchronised_of_agree h
  have hboundary : currentBoundary (writeStore .cfg0 c s) = currentBoundary s := rfl
  have hinstr : instructionStep (applyBoundary (currentBoundary s) (writeStore .cfg0 c s)) =
      mapNext (writeStore .cfg0 c) (instructionStep (applyBoundary (currentBoundary s) s)) := by
    rw [applyBoundary_writeStore_cfg0 h]
    exact instructionStep_writeStore_cfg0 (by simpa using h) (by simpa using hfetch)
  unfold step runStep
  rw [hsync, hboundary, interruptStep_writeStore_cfg0 h, hinstr,
    mapNext_comm (passBoundary_writeStore .cfg0 c)]
  split_ifs <;> rfl

end Sys2Proof.Machine
end

section
/-! PROOFS. The step (00_scope.md R16, 60_exceptions.md R197 to R200): what one step keeps, and which instruction it
runs. -/

namespace Sys2Proof.Machine

open Sys2Proof.Safety

/-! ## Alignment (R121; D7) -/

/-- Adding 4 keeps the two low bits. -/
@[simp] theorem aligned4_add_four (a : Word) : aligned4 (a + 4#32) = aligned4 a := by
  have hlow : (a + 4#32).extractLsb' 0 2 = a.extractLsb' 0 2 := by
    apply BitVec.eq_of_toNat_eq
    simp only [BitVec.extractLsb'_toNat, BitVec.toNat_add, BitVec.toNat_ofNat, Nat.shiftRight_zero]
    omega
  rw [aligned4, hlow, aligned4]

/-- `INT_VECTOR` is aligned (D7). -/
@[simp] theorem aligned4_intVector (p : Params) : aligned4 (intVector p) = true :=
  beq_iff_eq.mpr BitVec.extractLsb'_append_eq_right

/-! ## What a step keeps -/

/-- A completed step is an interrupt entry outside a handler, `mret` in a handler, or another instruction, which
keeps the trap state and advances `pc`. -/
theorem step_next_trap {s t : State} (h : step s = .next t) :
    t.mem = s.mem ∧ t.params = s.params ∧
    (((currentBoundary s).intPending = true ∧ s.inHandler = false ∧ t.inHandler = true ∧ t.retPc = s.pc ∧
        t.csr.intpRestorePc = s.pc ∧ t.pc = intVector s.params) ∨
      (fetchInstr s = .ok .mret ∧ s.inHandler = true ∧ t.inHandler = false ∧ t.retPc = s.retPc ∧ t.pc = s.retPc) ∨
      (t.retPc = s.retPc ∧ t.inHandler = s.inHandler ∧ t.pc = s.pc + 4#32 ∧
        (s.inHandler = true → t.csr.intpRestorePc = s.csr.intpRestorePc))) := by
  obtain ⟨-, ⟨hpending, -, hout, rfl⟩ | ⟨-, i, u, hfetch, hexec, rfl⟩⟩ := step_next_cases h
  · exact ⟨answerInterrupt_mem _, answerInterrupt_params _, .inl ⟨hpending, hout, answerInterrupt_inHandler _,
      answerInterrupt_retPc _, by simp, answerInterrupt_pc _⟩⟩
  · obtain ⟨hret, hmem, hparams, -⟩ := exec_next_frame hexec
    refine ⟨hmem, hparams, .inr ?_⟩
    by_cases hi : i = .mret
    · subst hi
      obtain ⟨hin, rfl⟩ := exec_mret_next hexec
      exact .inl ⟨hfetch, hin, rfl, rfl, rfl⟩
    · have hpc := pc_of_exec_next hexec hi
      have hhandler := inHandler_of_exec_next hexec hi
      refine .inr ⟨hret, hhandler, hpc, fun hin => ?_⟩
      have hkeep := readStore_of_exec_next_in_handler (r := .intpRestorePc) hexec hin rfl
      exact hkeep.trans (statusFeed_intpRestorePc ..)

/-- Settles O45: an entry saves an aligned `pc` twice and goes to an aligned vector; `mret` goes to the saved `pc`;
the other instructions add 4 and keep the saved ones. -/
theorem stepKeepsInv : Obligations.StepKeepsInv := by
  intro s t ⟨hmem, hpc, htrap⟩ h
  obtain ⟨hm, -, ⟨-, -, -, hret, hcopy, hvec⟩ | ⟨-, hin, hout, -, hback⟩ | ⟨hret, hin, hnext, hcopy⟩⟩ :=
    step_next_trap h
  · exact ⟨hm ▸ hmem, hvec ▸ aligned4_intVector s.params, fun _ => ⟨hret ▸ hpc, hcopy.trans hret.symm⟩⟩
  · exact ⟨hm ▸ hmem, hback ▸ (htrap hin).1, fun hin' => absurd (hout.symm.trans hin') Bool.false_ne_true⟩
  · refine ⟨hm ▸ hmem, by rw [hnext, aligned4_add_four, hpc], fun hin' => ?_⟩
    have hin₀ : s.inHandler = true := hin.symm.trans hin'
    obtain ⟨halign, hsaved⟩ := htrap hin₀
    exact ⟨hret ▸ halign, (hcopy hin₀).trans (hsaved.trans hret.symm)⟩

/-- Settles O38: the three cases of a step. -/
theorem returnAddressChangesOnlyAtEntry : Obligations.ReturnAddressChangesOnlyAtEntry := by
  intro s t h
  obtain ⟨-, -, ⟨hpending, hout, hin, hret, -⟩ | hmret | ⟨hret, hin, -, hcopy⟩⟩ := step_next_trap h
  · exact .inr (.inl ⟨hpending, hout, hin, hret⟩)
  · exact .inr (.inr hmret)
  · exact .inl ⟨hret, hin, hcopy⟩

/-- Settles O47: neither an entry nor an instruction stores. -/
theorem stepNeverChangesMemory : Obligations.StepNeverChangesMemory := by
  intro s t h
  obtain ⟨hmem, hparams, -⟩ := step_next_trap h
  exact ⟨hparams, fun a => congrArg (Memory.read · a) hmem⟩

/-- Settles O46: after reset no handler runs, and the launch gives memory and `pc`. -/
theorem resetHasInv : Obligations.ResetHasInv := by
  have hlaunch (l : Launch) (hmem : l.mem.wf) (hpc : aligned4 l.pc = true) : Inv (State.launch l) :=
    ⟨hmem, hpc, nofun⟩
  exact ⟨hlaunch resetLaunch reset_mem_wf rfl, hlaunch⟩

/-- Settles O39: the entry leaves `cfg0` and saves `pc`, to which `mret` then returns. -/
theorem entryThenMretComesBack : Obligations.EntryThenMretComesBack := by
  intro s hdescribed hpending hout
  obtain ⟨t, hstep, hret, -, hin, -, -, hregs, hcsrs, -, hmem, -⟩ :=
    interruptEntrySavesPc s hdescribed hpending hout
  have hknown : Cfg0.unknownSetting t.csr.cfg0 = false := by
    have hcfg : t.csr.cfg0 = s.csr.cfg0 := hcsrs .cfg0 (by decide)
    rw [hcfg, hdescribed.1]
  exact ⟨t, intReturn t, hstep, exec_mret_in_handler hknown hin, hret, rfl, hregs,
    fun r hr => (readStore_intReturn r t).trans (hcsrs r hr), hmem⟩

/-! ## Which instruction a step runs -/

/-- With no interrupt pending a step is the boundary's agents and then one instruction. -/
theorem step_of_quiet {s : State} (hsync : Cfg0.unsynchronised s.csr.cfg0 = false) (hquiet : quiet s) :
    step s = mapNext passBoundary (instructionStep (applyBoundary (currentBoundary s) s)) := by
  have hpending : (currentBoundary s).intPending = false := hquiet
  simp [step, runStep, hsync, hpending]

theorem step_of_fetchInstr {s : State} {i : Instr} (hsync : Cfg0.unsynchronised s.csr.cfg0 = false)
    (hquiet : quiet s) (hfetch : fetchInstr s = .ok i) :
    step s = mapNext passBoundary (exec i (applyBoundary (currentBoundary s) s)) := by
  rw [step_of_quiet hsync hquiet, instructionStep, fetchInstr_applyBoundary, hfetch]

theorem step_of_fetchInstr_error {s : State} {f : Fault} (hsync : Cfg0.unsynchronised s.csr.cfg0 = false)
    (hquiet : quiet s) (hfetch : fetchInstr s = .error f) : step s = .fault f := by
  rw [step_of_quiet hsync hquiet, instructionStep, fetchInstr_applyBoundary, hfetch]
  rfl

/-- Bytes that decode to an instruction are the instruction fetched (R121). -/
theorem fetchInstr_of_decode {s : State} {i : Instr} {bytes rest : List Byte} (halign : aligned4 s.pc = true)
    (hbytes : fetchBytes s = some bytes) (hdecode : decode bytes = .ok (i, rest)) : fetchInstr s = .ok i := by
  simp [fetchInstr, halign, hbytes, hdecode]

/-- Decoding the four bytes of a word is decoding the word. -/
theorem decode_bytesOfWord (w : Word) : decode (bytesOfWord w) = (decodeWord w).map (·, []) :=
  Laws.decode_bytesOfWord_append w []

/-- Settles O40: the fetch reads what the boundary's agents leave alone. -/
theorem stepRunsDecodedInstruction : Obligations.StepRunsDecodedInstruction := by
  intro s i bytes rest hsync hquiet halign hbytes hdecode
  rw [step_of_fetchInstr hsync hquiet (fetchInstr_of_decode halign hbytes hdecode)]
  cases exec i (applyBoundary (currentBoundary s) s) <;> rfl

/-- Settles O41: the fetch answers each of the three faults in turn. -/
theorem fetchStopsByName : Obligations.FetchStopsByName := by
  refine fun s hsync hquiet => ⟨fun halign => ?_, fun halign hbytes => ?_, fun w halign hbytes hnone => ?_⟩
  · exact step_of_fetchInstr_error hsync hquiet (by simp [fetchInstr, halign])
  · exact step_of_fetchInstr_error hsync hquiet (by simp [fetchInstr, halign, hbytes])
  · have hdecode : decode (bytesOfWord w) = .error (.unmodelled w) := by
      rw [decode_bytesOfWord, decodeWord_eq_unmodelled_iff.mpr hnone]
      rfl
    exact step_of_fetchInstr_error hsync hquiet (by simp [fetchInstr, halign, hbytes, hdecode])

/-- Loading all 32 bits of a word loads the word. -/
theorem withFetchWord_toNat (s : State) (w : Word) : s.withFetchWord 32 w.toNat = loadWord w s := by
  have hw : BitVec.ofNat 32 (w.toNat % 2 ^ 32) = w := by
    rw [Nat.mod_eq_of_lt w.isLt, BitVec.ofNat_toNat, BitVec.setWidth_eq]
  rw [State.withFetchWord, hw]

/-- The loaded word is what the next step fetches. -/
theorem fetchInstr_loadWord {s : State} {w : Word} {i : Instr} (halign : aligned4 s.pc = true)
    (hw : decodeWord w = .ok i) : fetchInstr (loadWord w s) = .ok i := by
  have hdecode : decode (bytesOfWord w) = .ok (i, []) := by
    rw [decode_bytesOfWord, hw]
    rfl
  rw [loadWord, fetchInstr_congr (answerInterrupt_pc _) (answerInterrupt_mem _)]
  exact fetchInstr_of_decode halign (fetchBytes_storeFetchWord w s) hdecode

/-- Settles O42: the load writes memory and answers the pending request, so the next step is quiet and fetches the
word. -/
theorem loadedWordRunsNext : Obligations.LoadedWordRunsNext := by
  intro s w i hsync halign hw
  rw [withFetchWord_toNat]
  have hcsr : (loadWord w s).csr = s.csr := answerInterrupt_csr _
  exact step_of_fetchInstr (hcsr ▸ hsync) (quiet_answerInterrupt _) (fetchInstr_loadWord halign hw)

end Sys2Proof.Machine
end

section
/-! PROOFS. The CSR instructions that write (40_csr_instructions.md R146 to R151), and what follows for the single
CSRs (10_state.md, 20_memory.md R107, 70_reset_and_hazards.md R230 to R240). -/

namespace Sys2Proof.Machine

open Sys2Proof.Safety

/-! ## An access that writes (R143, R152) -/

/-- Without a clearing read, an access that writes is the masked write of the combined value; only the write form
can write without reading, and it does not look at the old value. -/
theorem afterAccess_write {k : CsrKind} {rd : Reg} {r : CsrStore} {s : State}
    (hclear : doRead k rd = true → clears (.storage r) s = false) (v : Word) :
    afterAccess k (.storage r) v (doRead k rd) true s =
      writeStore r (masked s.params r (readStore r s) (k.combine (readStore r s) v)) s := by
  cases hread : doRead k rd with
  | false =>
    cases k with
    | write => rfl
    | set | clear => cases hread
  | true =>
    change csrWrite (.storage r) (k.combine (readStore r s) v) (readEffect (.storage r) s) = _
    rw [readEffect_of_not_clears (hclear hread), csrWrite_storage]

/-- Outside a handler and without a clearing read, a CSR instruction that writes completes: storage takes the
combined value within `WMASK`, `rd` the old one, `pc` advances and nothing else changes. -/
theorem exec_csrInstr_writes {k : CsrKind} {rd : Reg} {a : CsrAddr} {src : CsrSource} {r : CsrStore} {s : State}
    (hhome : csrHome a = some (.storage r)) (hout : s.inHandler = false) (hwrite : doWrite k src = true)
    (hclear : doRead k rd = true → clears (.storage r) s = false) :
    ∃ t, exec (csrInstr k rd a src) s = .next t ∧
      readStore r t = masked s.params r (readStore r s) (k.combine (readStore r s) (src.value s)) ∧
      (rd ≠ 0 → readReg t rd = readStore r s) ∧ t.pc = s.pc + 4#32 ∧ sameBut [rd] [r] s t := by
  have hexec := (exec_csrInstr k rd a src s).trans
    (csrOp_completes hhome (fun _ => hout) (fun _ hconst => nomatch hconst) (fun hread _ => hclear hread))
  rw [hwrite] at hexec
  have haccess := afterAccess_write hclear (src.value s)
  refine ⟨_, hexec, ?_, fun hrd => ?_, (csrEffect_frame ..).1, sameRegsBut_csrEffect _ _ _ _ _ _ _,
    sameCsrsBut_csrEffect _ _ _ _ _ _ _,
    fun n => ?_, sameMemory_trapState_outside_csrEffect ..⟩
  · rw [readStore_csrEffect, haccess, readStore_writeStore_same]
  · rw [doRead_eq_true_iff.mpr fun _ => hrd, readReg_csrEffect_rd hrd]
    rfl
  · rw [hpm_csrEffect, haccess, writeStore_bit64]

/-- The read/write forms read only into a register that is not `x0` (R146, R149). -/
theorem clears_eq_false_of_write {rd : Reg} {r : CsrStore} {s : State}
    (h : rd = 0 ∨ r.isHpmHalf = false ∨ Cfg0.pmcClrOnRd s.csr.cfg0 = false) (hread : doRead .write rd = true) :
    clears (.storage r) s = false :=
  clears_eq_false_iff.mpr (h.resolve_left (doRead_eq_true_iff.mp hread rfl))

theorem doWrite_reg {rs1 : Reg} (h : rs1 ≠ 0) (k : CsrKind) : doWrite k (.reg rs1) = true :=
  doWrite_eq_true_iff.mpr (.inr (beq_eq_false_iff_ne.mpr h))

theorem doWrite_imm {u : BitVec 5} (h : u ≠ 0#5) (k : CsrKind) : doWrite k (.imm u) = true :=
  doWrite_eq_true_iff.mpr (.inr (beq_eq_false_iff_ne.mpr h))

/-! ## The bits an immediate cannot reach (R150, R151) -/

/-- Setting or clearing the bits of a 5-bit immediate keeps bits 31:5. -/
theorem combine_imm_high_bits {k : CsrKind} (hk : k ≠ .write) (old : Word) (u : BitVec 5) :
    (k.combine old (u.setWidth 32)).extractLsb' 5 27 = old.extractLsb' 5 27 := by
  ext j hj
  cases k with
  | write => exact absurd rfl hk
  | set => simp [CsrKind.combine]
  | clear => simp [CsrKind.combine]; omega

/-- A masked write of a value that keeps bits 31:5 keeps them. -/
theorem masked_high_bits {old v : Word} (h : v.extractLsb' 5 27 = old.extractLsb' 5 27) (p : Params) (r : CsrStore) :
    (masked p r old v).extractLsb' 5 27 = old.extractLsb' 5 27 := by
  ext j hj
  have hbit : v.getLsbD (5 + j) = old.getLsbD (5 + j) := by
    simpa [hj] using congrArg (·.getLsbD j) h
  simp only [masked, BitVec.getElem_extractLsb', BitVec.getLsbD_or, BitVec.getLsbD_and, BitVec.getLsbD_not, hbit,
    show 5 + j < 32 by omega, decide_true, Bool.true_and]
  cases (wmask p r).getLsbD (5 + j) <;> simp

/-- The set and clear forms with a non-zero immediate (R150, R151). -/
theorem exec_csrInstr_imm {k : CsrKind} (hk : k ≠ .write) {rd : Reg} {u : BitVec 5} {a : CsrAddr} {r : CsrStore}
    {s : State} (hhome : csrHome a = some (.storage r)) (hout : s.inHandler = false) (hu : u ≠ 0#5)
    (hclear : r.isHpmHalf = false ∨ Cfg0.pmcClrOnRd s.csr.cfg0 = false) :
    ∃ t, exec (csrInstr k rd a (.imm u)) s = .next t ∧
      readStore r t = masked s.params r (readStore r s) (k.combine (readStore r s) (BitVec.ofNat 32 u.toNat)) ∧
      (readStore r t).extractLsb' 5 27 = (readStore r s).extractLsb' 5 27 ∧
      (rd ≠ 0 → readReg t rd = readStore r s) ∧ t.pc = s.pc + 4#32 ∧ sameBut [rd] [r] s t := by
  obtain ⟨t, hexec, hstore, hrest⟩ := exec_csrInstr_writes (k := k) (rd := rd) hhome hout (doWrite_imm hu k)
    (fun _ => clears_eq_false_iff.mpr hclear)
  refine ⟨t, hexec, ?_, ?_, hrest⟩
  · rw [hstore, BitVec.ofNat_toNat]
    rfl
  · rw [hstore]
    exact masked_high_bits (combine_imm_high_bits hk _ u) ..

/-! ## The six forms -/

/-- Settles O6: the write form of the common lemma. -/
theorem csrrwExchanges : Obligations.CsrrwExchanges := fun _ _ _ _ _ hhome hout hclear =>
  exec_csrInstr_writes (k := .write) (src := .reg _) hhome hout rfl (clears_eq_false_of_write hclear)

/-- Settles O7: the set form; the test is on the register number. -/
theorem csrrsSetsBits : Obligations.CsrrsSetsBits := fun _ _ _ _ _ hhome hout hrs1 hclear =>
  exec_csrInstr_writes (k := .set) hhome hout (doWrite_reg hrs1 .set) (fun _ => clears_eq_false_iff.mpr hclear)

/-- Settles O8: the clear form. -/
theorem csrrcClearsBits : Obligations.CsrrcClearsBits := fun _ _ _ _ _ hhome hout hrs1 hclear =>
  exec_csrInstr_writes (k := .clear) hhome hout (doWrite_reg hrs1 .clear) (fun _ => clears_eq_false_iff.mpr hclear)

/-- Settles O9: the write form with the zero-extended immediate as its operand. -/
theorem csrrwiWritesImmediate : Obligations.CsrrwiWritesImmediate := by
  intro rd u a r s hhome hout hclear
  rw [BitVec.ofNat_toNat]
  exact exec_csrInstr_writes (k := .write) (src := .imm u) hhome hout rfl (clears_eq_false_of_write hclear)

/-- Settles O10: bits 31:5 of the immediate are zero, so setting its bits keeps them. -/
theorem csrrsiSetsLowBits : Obligations.CsrrsiSetsLowBits := fun _ _ _ _ _ hhome hout hu hclear =>
  exec_csrInstr_imm (k := .set) nofun hhome hout hu hclear

/-- Settles O11: likewise for clearing its bits. -/
theorem csrrciClearsLowBits : Obligations.CsrrciClearsLowBits := fun _ _ _ _ _ hhome hout hu hclear =>
  exec_csrInstr_imm (k := .clear) nofun hhome hout hu hclear

/-! ## Single CSRs -/

/-- Settles O13: a pure read of a constant has no side effect. -/
theorem constantCsrsReadTheirConstants : Obligations.ConstantCsrsReadTheirConstants := fun _ _ p hp _ hi =>
  exec_pureRead_of_not_clears hi (csrHome_of_mem_constantCsrs (p := p) hp) rfl

/-- Settles O15: the statement's list is the table's addresses and homes. -/
theorem recognisedAddressesAreThe43 : Obligations.RecognisedAddressesAreThe43 := by
  refine ⟨rfl, by decide, fun a => recognised_iff_mem, fun p hp => ?_⟩
  have htable : p ∈ csrTable.map fun row => (row.addr, row.home) := hp
  obtain ⟨row, hrow, rfl⟩ := List.mem_map.mp htable
  exact csrHome_addr_of_mem_csrTable row hrow

/-- The configuration and scratch CSRs are full-width storage (R43, R62, R63). -/
theorem fullWidth_of_mem_config {a : CsrAddr}
    (ha : a ∈ [0x7c0#12, 0x7c1#12, 0x7c2#12, 0x7c3#12, 0x7c4#12, 0x7c5#12, 0x7c6#12]) (p : Params) :
    ∃ r, csrHome a = some (.storage r) ∧ wmask p r = allBits := by
  simp only [List.mem_cons, List.not_mem_nil, or_false] at ha
  obtain rfl | rfl | rfl | rfl | rfl | rfl | rfl := ha <;> exact ⟨_, rfl, rfl⟩

/-- On RISCV B and NC every bit of the `tt_cfg_sstatus` CSRs is writable (R73). -/
theorem wmask_ttCfgSstatus {p : Params} (hkind : isBOrNc p.coreKind) (j : Fin 8) :
    wmask p (.ttCfgSstatus j) = allBits := by
  obtain h | h := hkind <;> simp [wmask, h]

theorem fullWidth_of_mem_sstatus {a : CsrAddr}
    (ha : a ∈ [0xbc2#12, 0xbc3#12, 0xbc4#12, 0xbc5#12, 0xbc6#12, 0xbc7#12, 0xbc8#12, 0xbc9#12]) {p : Params}
    (hkind : isBOrNc p.coreKind) : ∃ r, csrHome a = some (.storage r) ∧ wmask p r = allBits := by
  simp only [List.mem_cons, List.not_mem_nil, or_false] at ha
  obtain rfl | rfl | rfl | rfl | rfl | rfl | rfl | rfl := ha <;> exact ⟨_, rfl, wmask_ttCfgSstatus hkind _⟩

/-- Settles O21: each of the addresses reaches storage of which every bit is writable, so the read gives back what
was written. -/
theorem fullWidthCsrsKeepEveryBit : Obligations.FullWidthCsrsKeepEveryBit := by
  intro a rd rs1 s hout hrd ha
  obtain ⟨r, hhome, hmask⟩ : ∃ r, csrHome a = some (.storage r) ∧ wmask s.params r = allBits := by
    obtain ha | ⟨hkind, ha⟩ := ha
    · exact fullWidth_of_mem_config ha s.params
    · exact fullWidth_of_mem_sstatus ha hkind
  exact csrrw_then_csrrs_same_storage hhome hhome hmask hout hrd rs1

/-- A read of storage by `csrrs` with `rs1 = x0` puts its value in `rd`. -/
theorem exec_csrrs_x0_reads {a : CsrAddr} {r : CsrStore} (hhome : csrHome a = some (.storage r)) {rd : Reg}
    (hrd : rd ≠ 0) (s : State) : ∃ t, exec (.csrrs rd a 0) s = .next t ∧ readReg t rd = readStore r s :=
  ⟨_, exec_csrrs_x0 hhome rd s, readReg_csrEffect_rd hrd ..⟩

/-- Settles O43: the launch overwrites two CSRs and clears `in_handler`. -/
theorem resetGivesSourceValues : Obligations.ResetGivesSourceValues := by
  have htimer : Cfg0.stMergeTimer 0x00020000#32 = 16 := by decide
  refine ⟨fun l => ⟨rfl, htimer, rfl, rfl, fun rd hrd => ⟨?_, ?_⟩, rfl, rfl, rfl, rfl, rfl, rfl, rfl, rfl, rfl, rfl⟩,
    rfl, rfl⟩
  · exact exec_csrrs_x0_reads (r := .cfg0) rfl hrd (State.launch l)
  · exact exec_csrrs_x0_reads (r := .vlenb) rfl hrd (State.launch l)

theorem step_of_unsynchronised {s : State} (h₁₀ : s.csr.cfg0.getLsbD 10 = true) (h₉ : s.csr.cfg0.getLsbD 9 = false) :
    step s = .refused .csrSyncDisabled := by
  have hsync : Cfg0.unsynchronised s.csr.cfg0 = true :=
    Bool.and_eq_true_iff.mpr ⟨h₁₀, (Bool.not_eq_true' _).mpr h₉⟩
  simp [step, runStep, hsync]

/-- Settles O54: the write of `cfg0` completes with every bit of the operand, and the step looks at bits 10 and 9
first. -/
theorem unsynchronisedCoreIsRefused : Obligations.UnsynchronisedCoreIsRefused := by
  refine ⟨fun s => step_of_unsynchronised, fun rd rs1 s hout => ?_⟩
  obtain ⟨t, hexec, hstore, -⟩ := exec_csrInstr_writes (k := .write) (rd := rd) (a := 0x7c0#12) (src := .reg rs1)
    (r := .cfg0) rfl hout rfl (fun _ => rfl)
  have hcfg : t.csr.cfg0 = readReg s rs1 := hstore.trans (masked_allBits rfl ..)
  exact ⟨t, hexec, hcfg, fun h₁₀ h₉ => step_of_unsynchronised (hcfg ▸ h₁₀) (hcfg ▸ h₉)⟩

/-! ## Strong ordering (R107, R108) -/

theorem pmacfgEn_append_ofBool (v : BitVec 31) (x : Bool) : pmacfgEn (v ++ BitVec.ofBool x) = x :=
  BitVec.getLsbD_append.trans (by simp)

/-- Setting and then clearing bit 0 of a full-width CSR by immediates leaves the other stores as before. -/
theorem exec_csrrsi_then_csrrci {a : CsrAddr} {r : CsrStore} {s : State} (hhome : csrHome a = some (.storage r))
    (hmask : ∀ p, wmask p r = allBits) (hhalf : r.isHpmHalf = false) (hout : s.inHandler = false) :
    ∃ t u, exec (.csrrsi 0 a 1#5) s = .next t ∧ exec (.csrrci 0 a 1#5) t = .next u ∧
      (readStore r t).getLsbD 0 = true ∧ (readStore r u).getLsbD 0 = false ∧
      sameCsrsBut [r] s u := by
  obtain ⟨t, hset, hstore, -, -, -, -, hcsrs, -, -, ⟨-, hin⟩, -⟩ :=
    exec_csrInstr_imm (k := .set) (rd := 0) (u := 1#5) nofun hhome hout (by decide) (.inl hhalf)
  obtain ⟨u, hclear, hstore', -, -, -, -, hcsrs', -⟩ :=
    exec_csrInstr_imm (k := .clear) (rd := 0) (u := 1#5) nofun hhome (hin.trans hout) (by decide) (.inl hhalf)
  refine ⟨t, u, hset, hclear, ?_, ?_, fun q hq => (hcsrs' q hq).trans (hcsrs q hq)⟩
  · rw [hstore, masked_allBits (hmask _)]
    simp [CsrKind.combine]
  · rw [hstore', masked_allBits (hmask _)]
    simp [CsrKind.combine]

/-- One `pmacfg` set and cleared again: then the other one decides the ordering. -/
theorem stronglyOrdered_after_csrrsi_csrrci {a : CsrAddr} {r q : CsrStore} {s : State}
    (hhome : csrHome a = some (.storage r)) (hmask : ∀ p, wmask p r = allBits) (hhalf : r.isHpmHalf = false)
    (hout : s.inHandler = false) (hq : q ≠ r)
    (horder : ∀ t, stronglyOrdered t = (pmacfgEn (readStore r t) || pmacfgEn (readStore q t))) :
    ∃ t u, exec (.csrrsi 0 a 1#5) s = .next t ∧ stronglyOrdered t = true ∧
      exec (.csrrci 0 a 1#5) t = .next u ∧ stronglyOrdered u = pmacfgEn (readStore q s) := by
  obtain ⟨t, u, hset, hclear, ht, hu, hkept⟩ := exec_csrrsi_then_csrrci hhome hmask hhalf hout
  have hon : pmacfgEn (readStore r t) = true := ht
  have hoff : pmacfgEn (readStore r u) = false := hu
  refine ⟨t, u, hset, ?_, hclear, ?_⟩
  · rw [horder, hon, Bool.true_or]
  · rw [horder, hoff, Bool.false_or, hkept q (by simpa using hq)]

/-- Settles O55: bit 0 of the CSR the instructions address is set and then clear, and the other `pmacfg` is as
before. -/
theorem pmacfgLowBitsOrderMemory : Obligations.PmacfgLowBitsOrderMemory := by
  refine ⟨fun v w x y s => ?_, fun s hout a ha => ?_⟩
  · exact congrArg₂ _ (pmacfgEn_append_ofBool v x) (pmacfgEn_append_ofBool w y)
  · simp only [List.mem_cons, List.not_mem_nil, or_false] at ha
    obtain rfl | rfl := ha
    · obtain ⟨t, u, hset, ht, hclear, hu⟩ := stronglyOrdered_after_csrrsi_csrrci (a := 0x7c1#12) (r := .pmacfg0)
        (q := .pmacfg1) rfl (fun _ => rfl) rfl hout nofun (fun _ => rfl)
      exact ⟨t, u, hset, ht, hclear, by simp [hu, readStore]⟩
    · obtain ⟨t, u, hset, ht, hclear, hu⟩ := stronglyOrdered_after_csrrsi_csrrci (a := 0x7c2#12) (r := .pmacfg1)
        (q := .pmacfg0) rfl (fun _ => rfl) rfl hout nofun (fun _ => Bool.or_comm ..)
      exact ⟨t, u, hset, ht, hclear, by simp [hu, readStore]⟩

end Sys2Proof.Machine
end

section
/-! PROOFS. The `vset` instructions, `fence` and `mret`, and the states outside the spec in which they are refused
(41_named_instructions.md R170 to R178; R46). -/

namespace Sys2Proof.Machine

open Sys2Proof.Safety

/-! ## When a `vset` instruction completes (R171) -/

section VsetOp

variable (form : VsetForm) (rd : Reg) (avl : Avl) (req : Word) {s : State}

theorem vsetOp_unknown (hunknown : Cfg0.unknownSetting s.csr.cfg0 = true) :
    vsetOp form rd avl req s = .refused .unknownCfg0Setting := by
  simp [vsetOp, hunknown]

theorem vsetOp_in_handler (hknown : Cfg0.unknownSetting s.csr.cfg0 = false) (hin : s.inHandler = true) :
    vsetOp form rd avl req s = .fault (.csrWriteInHandler vsetFaultAddr) := by
  simp [vsetOp, hknown, hin]

theorem vsetOp_outside_handler (hknown : Cfg0.unknownSetting s.csr.cfg0 = false) (hout : s.inHandler = false) :
    vsetOp form rd avl req s = .next (vsetEffect form rd avl req s) := by
  simp [vsetOp, hknown, hout]

end VsetOp

/-- What a `vset` effect leaves: the answer of `VSET` in `vl`, `vtype` and `rd`, and the frame. -/
theorem vsetEffect_takes (form : VsetForm) (rd : Reg) (avl : Avl) (req : Word) (s : State) :
    let answer := Config.vset form avl req s.csr.vl s.csr.vtype
    let t := vsetEffect form rd avl req s
    readStore .vl t = answer.1 ∧ readStore .vtype t = answer.2 ∧ (rd ≠ 0 → readReg t rd = answer.1) ∧
      t.pc = s.pc + 4#32 ∧ sameBut [rd] [.vl, .vtype] s t := by
  intro answer t
  obtain ⟨hpc, hret, hin, hmem, houtside⟩ := vsetEffect_frame form rd avl req s
  refine ⟨?_, ?_, fun hrd => readReg_vsetEffect_rd hrd form avl req s, hpc, fun q hq => ?_, fun r hr => ?_,
    fun n => congrArg _ (hpm_vsetEffect n form rd avl req s), fun a => congrArg (Memory.read · a) hmem,
    ⟨hret, hin⟩, houtside⟩
  · exact (readStore_advancePc ..).trans (readStore_writeReg ..)
  · exact (readStore_advancePc ..).trans (readStore_writeReg ..)
  · exact readReg_vsetEffect_other (List.ne_of_not_mem_cons hq) ..
  · obtain ⟨hl, ht⟩ : r ≠ .vl ∧ r ≠ .vtype := by simpa using hr
    exact readStore_vsetEffect_other hl ht ..

/-- A `vset` instruction outside a handler completes with the effect of its operands. -/
theorem exec_vset_outside_handler {i : Instr} {s : State} {o : VsetOperands} (ho : vsetOperands i s = some o)
    (hknown : Cfg0.unknownSetting s.csr.cfg0 = false) (hout : s.inHandler = false) :
    exec i s = .next (vsetEffect o.form o.rd o.avl o.req s) :=
  (exec_vset ho).trans (vsetOp_outside_handler _ _ _ _ hknown hout)

/-- The requested length in a register, as R172 and R174 say. -/
theorem avlOfReg_eq (rd rs1 : Reg) (s : State) :
    avlOfReg rd rs1 s = if rs1 ≠ 0 then .register (readReg s rs1) else if rd ≠ 0 then .maximum else .keep := by
  simp [avlOfReg]

/-- Settles O30: the three forms differ in their operands alone. -/
theorem vsetTakesWhatVsetAnswers : Obligations.VsetTakesWhatVsetAnswers := by
  intro s hknown hout after avl
  refine ⟨fun rd rs1 z => ?_, fun rd u z => ?_, fun rd rs1 rs2 => ?_⟩
  · have havl : avl rd rs1 = avlOfReg rd rs1 s := (avlOfReg_eq rd rs1 s).symm
    rw [BitVec.ofNat_toNat, havl]
    exact ⟨_, exec_vset_outside_handler (i := .vsetvli rd rs1 z) rfl hknown hout, vsetEffect_takes ..⟩
  · rw [BitVec.ofNat_toNat, BitVec.ofNat_toNat]
    exact ⟨_, exec_vset_outside_handler (i := .vsetivli rd u z) rfl hknown hout, vsetEffect_takes ..⟩
  · have havl : avl rd rs1 = avlOfReg rd rs1 s := (avlOfReg_eq rd rs1 s).symm
    rw [havl]
    exact ⟨_, exec_vset_outside_handler (i := .vsetvl rd rs1 rs2) rfl hknown hout, vsetEffect_takes ..⟩

/-- Settles O57: the handler check of `VsetOp`, whatever the operands. -/
theorem vsetInHandlerStops : Obligations.VsetInHandlerStops := by
  intro s hin hknown i hi
  obtain ⟨o, ho⟩ := exists_vsetOperands hi s
  exact (exec_vset ho).trans (vsetOp_in_handler _ _ _ _ hknown hin)

/-- Settles O31: the effect of `fence` is `advancePc`. -/
theorem fenceOnlyAdvancesPc : Obligations.FenceOnlyAdvancesPc := by
  intro fm p q s hknown
  have hexec : exec (.fence fm p q) s = .next (advancePc s) := by
    change execFence fm p q s = _
    simp [execFence, hknown]
  exact ⟨advancePc s, hexec, advancePc_pc s, fun r _ => readReg_advancePc r s, fun r _ => readStore_advancePc r s,
    fun n => congrArg _ (hpm_advancePc n s), fun _ => rfl, ⟨rfl, rfl⟩, rfl, rfl, rfl⟩

/-- Settles O34: `mret` looks at `in_handler` before it returns. -/
theorem mretOutsideHandlerStops : Obligations.MretOutsideHandlerStops := by
  intro s hknown hout
  change execMret s = _
  simp [execMret, hknown, hout]

/-! ## States outside the spec (R46; D20) -/

/-- The six fields of unknown purpose, as bits: with all of them clear the masked word is zero. -/
theorem unknownSetting_of_mask {c : Word} (h : c &&& 0x1c080811#32 ≠ 0#32) : Cfg0.unknownSetting c = true := by
  by_contra hfalse
  simp only [Cfg0.unknownSetting, Bool.not_eq_true, Bool.or_eq_false_iff, bne_eq_false_iff_eq] at hfalse
  obtain ⟨⟨⟨⟨⟨h₀, h₄⟩, h₁₁⟩, h₁₉⟩, hsel⟩, h₂₈⟩ := hfalse
  have h₂₆ : c.getLsbD 26 = false := by simpa [Cfg0.bpHistSel] using congrArg (·.getLsbD 0) hsel
  have h₂₇ : c.getLsbD 27 = false := by simpa [Cfg0.bpHistSel] using congrArg (·.getLsbD 1) hsel
  have hclear : ∀ n ∈ [0, 4, 11, 19, 26, 27, 28], c.getLsbD n = false := by
    simpa using ⟨h₀, h₄, h₁₁, h₁₉, h₂₆, h₂₇, h₂₈⟩
  have hbits : ∀ n < 32, (0x1c080811#32 : Word).getLsbD n = true → n ∈ [0, 4, 11, 19, 26, 27, 28] := by decide
  refine h (BitVec.eq_of_getLsbD_eq fun n hn => ?_)
  rw [BitVec.getLsbD_and, BitVec.getLsbD_zero, Bool.and_eq_false_iff]
  by_cases hmask : (0x1c080811#32 : Word).getLsbD n = true
  · exact .inl (hclear n (hbits n hn hmask))
  · exact .inr (Bool.eq_false_iff.mpr hmask)

/-- Settles O35: each of them looks at the six fields before anything else, and the step at bits 10 and 9 alone. -/
theorem unknownCfg0SettingRefuses : Obligations.UnknownCfg0SettingRefuses := by
  intro s hmask
  have hunknown := unknownSetting_of_mask hmask
  refine ⟨fun i hi => ?_, fun fm p q => ?_, ?_, fun h₁₀ hpending => ?_⟩
  · obtain ⟨o, ho⟩ := exists_vsetOperands hi s
    exact (exec_vset ho).trans (vsetOp_unknown _ _ _ _ hunknown)
  · change execFence fm p q s = _
    simp [execFence, hunknown]
  · change execMret s = _
    simp [execMret, hunknown]
  · have hsync : Cfg0.unsynchronised s.csr.cfg0 = false := Bool.and_eq_false_iff.mpr (.inl h₁₀)
    rw [step_of_pending hsync hpending]
    simp [interruptStep, hunknown]

end Sys2Proof.Machine
end

section
/-! PROOFS. The agents of a boundary (60_exceptions.md R205 to R216): what they leave alone, the counters after any
number of events, and the status feed. -/

namespace Sys2Proof.Machine

open Sys2Proof.Safety

/-! ## What a boundary leaves alone -/

/-- The boundary changes no store but the counters and the status CSRs. -/
theorem sameCsrsBut_applyBoundary (b : Boundary) (s : State) :
    sameCsrsBut (counterStores ++ statusStores) s (applyBoundary b s) := by
  intro r hr
  have hread : ∀ q : CsrStore, q ∉ counterStores ++ statusStores →
      readStore q (applyBoundary b s) = readStore q { s with csr := statusFeed s.params.coreKind b s.csr } := by
    intro q hq
    cases q with
    | cycLow | cycHigh | iretLow | iretHigh => exact absurd (by decide) hq
    | hpmLow n | hpmHigh n => cases n <;> exact absurd (by decide) hq
    | mhpmevent n => cases n <;> rfl
    | _ => rfl
  rw [hread r hr, statusFeed_eq]
  cases r with
  | ttCfgQstatus | ttCfgBstatus => exact absurd (by decide) hr
  | ttCfgSstatus j =>
    have hall : ∀ j : Fin 8, CsrStore.ttCfgSstatus j ∈ counterStores ++ statusStores := by decide
    exact absurd (hall j) hr
  | mhpmevent n | hpmLow n | hpmHigh n => cases n <;> rfl
  | _ => rfl

/-- Settles O48: the boundary writes the CSR file and the four counters alone, and of the CSR file the status CSRs. -/
theorem boundaryChangesOnlyCountersAndStatus : Obligations.BoundaryChangesOnlyCountersAndStatus := fun b s =>
  ⟨fun _ _ => readReg_congr rfl _, sameCsrsBut_applyBoundary b s, rfl, fun _ => rfl, ⟨rfl, rfl⟩, rfl, rfl, rfl⟩

/-- Settles O49: neither agent looks at a CSR. -/
theorem cycleAndRetireCountersAdvance : Obligations.CycleAndRetireCountersAdvance := by
  intro b s inhibit cfg0 t
  exact ⟨(halves_toNat _).trans (countUp_toNat s.cyc b.cycTicks),
    (halves_toNat _).trans (countUp_toNat s.iret b.iretTicks)⟩

/-! ## An HPM counter after events (R212) -/

theorem hpmValue_lt {h : HpmCounter} (hbit : h.bit64 = false) : hpmValue h < 2 ^ 64 := by
  have hlow := h.low.isLt
  simpa [hpmValue, hbit] using hlow

theorem le_hpmValue {h : HpmCounter} (hbit : h.bit64 = true) : 2 ^ 64 ≤ hpmValue h := by
  simp [hpmValue, hbit]

section Events

variable {c : CsrFile} {n : HpmId}

/-- A counter that is neither inhibited nor stopped counts one, whatever the draw, unless it carries out of 65
bits. -/
theorem hpmValue_hpmEventStep {h : HpmCounter} (hrun : hpmInhibited c.mcountinhibit n = false)
    (hgo : Cfg0.disPmcWrapArnd c.cfg0 = false ∨ h.bit64 = false) (hlt : hpmValue h + 1 < 2 ^ 65) (draw : Bool) :
    hpmValue (hpmEventStep c n draw h) = hpmValue h + 1 := by
  rw [hpmEventStep_running hrun hgo]
  split
  · next hmax =>
    have hbit : h.bit64 = false := by
      cases htop : h.bit64 with
      | false => rfl
      | true => simp [hpmValue, hmax, htop] at hlt
    simp [hpmValue, hmax, hbit]
  · next hmax =>
    have hne : h.low.toNat ≠ 2 ^ 64 - 1 := fun e => hmax (BitVec.eq_of_toNat_eq e)
    have hlow : (h.low + 1#64).toNat = h.low.toNat + 1 := by
      have := h.low.isLt
      rw [BitVec.toNat_add, BitVec.toNat_ofNat]
      omega
    simp only [hpmValue, hlow]
    omega

theorem hpmEvents_inhibited (hinhibited : hpmInhibited c.mcountinhibit n = true) (draw : Nat → Bool) (k : Nat)
    (h : HpmCounter) : hpmEvents c n draw k h = h := by
  induction k with
  | zero => rfl
  | succ k ih => rw [hpmEvents, hpmEventStep_inhibited hinhibited, ih]

theorem hpmEvents_stopped (hstop : Cfg0.disPmcWrapArnd c.cfg0 = true) (draw : Nat → Bool) (k : Nat) {h : HpmCounter}
    (htop : h.bit64 = true) : hpmEvents c n draw k h = h := by
  induction k with
  | zero => rfl
  | succ k ih => rw [hpmEvents, hpmEventStep_stopped hstop htop, ih]

/-- Under `DisPmcWrapArnd` a counter counts up to 2^64 and stops there. -/
theorem hpmValue_hpmEvents_saturating (hrun : hpmInhibited c.mcountinhibit n = false)
    (hstop : Cfg0.disPmcWrapArnd c.cfg0 = true) (draw : Nat → Bool) (k : Nat) {h : HpmCounter}
    (hbit : h.bit64 = false) : hpmValue (hpmEvents c n draw k h) = min (hpmValue h + k) (2 ^ 64) := by
  induction k generalizing h with
  | zero =>
    rw [hpmEvents, Nat.add_zero, Nat.min_eq_left (hpmValue_lt hbit).le]
  | succ k ih =>
    have hlt := hpmValue_lt hbit
    have hstep := hpmValue_hpmEventStep hrun (.inr hbit) (by omega) (draw k)
    rw [hpmEvents]
    cases hbit' : (hpmEventStep c n (draw k) h).bit64 with
    | false =>
      rw [ih hbit', hstep]
      omega
    | true =>
      have hge := le_hpmValue hbit'
      rw [hpmEvents_stopped hstop draw k hbit', hstep]
      omega

/-- Otherwise it counts on, and below 2^65 no draw plays a part. -/
theorem hpmValue_hpmEvents_wrapping (hrun : hpmInhibited c.mcountinhibit n = false)
    (hgo : Cfg0.disPmcWrapArnd c.cfg0 = false) (draw : Nat → Bool) (k : Nat) {h : HpmCounter}
    (hlt : hpmValue h + k < 2 ^ 65) : hpmValue (hpmEvents c n draw k h) = hpmValue h + k := by
  induction k generalizing h with
  | zero => rw [hpmEvents, Nat.add_zero]
  | succ k ih =>
    have hstep := hpmValue_hpmEventStep (h := h) hrun (.inl hgo) (by omega) (draw k)
    rw [hpmEvents, ih (by omega), hstep]
    omega

end Events

/-- The first entry of a selector counts (R211). -/
theorem eventCount_append {before : List (Word × Nat)} {sel : Word} (hbefore : ∀ e ∈ before, e.1 ≠ sel)
    (after : List (Word × Nat)) : eventCount (before ++ after) sel = eventCount after sel := by
  induction before with
  | nil => rfl
  | cons e rest ih =>
    obtain ⟨hne, hrest⟩ := List.forall_mem_cons.mp hbefore
    exact (eventCount_cons_other hne e.2 (rest ++ after)).trans (ih hrest)

/-- Settles O51: four inductions on the events; the boundary's draws are `Config.hpmCarry`. -/
theorem hpmCounterAfterEvents : Obligations.HpmCounterAfterEvents := by
  refine ⟨fun c n draw k h => ⟨fun hin => hpmEvents_inhibited hin draw k h,
    fun hrun hstop hbit => hpmValue_hpmEvents_saturating hrun hstop draw k hbit,
    fun _ hstop htop => hpmEvents_stopped hstop draw k htop,
    fun hrun hgo hlt => hpmValue_hpmEvents_wrapping hrun hgo draw k hlt⟩,
    fun b s => ⟨⟨_, rfl⟩, ⟨_, rfl⟩⟩, fun before after sel k hbefore => ⟨?_, ?_⟩⟩
  · rw [eventCount_append hbefore, eventCount_cons_same]
  · rw [← List.append_nil before, eventCount_append hbefore, eventCount_nil]

/-! ## The status feed (R59, R215, R216) -/

theorem sstatusAfter_of_isBOrNc {k : CoreKind} (hk : isBOrNc k) (feed : Vector (Option Word) 8) (old : Vector Word 8) :
    sstatusAfter k feed old = old := by
  obtain rfl | rfl := hk <;> rfl

/-- On RISCV B and NC the feed never touches the `tt_cfg_sstatus` CSRs. -/
theorem ttCfgSstatus_statusFeed {k : CoreKind} (hk : isBOrNc k) (b : Boundary) (csr : CsrFile) :
    (statusFeed k b csr).ttCfgSstatus = csr.ttCfgSstatus := by
  unfold statusFeed
  split
  · rfl
  · exact sstatusAfter_of_isBOrNc hk ..

/-- Settles O52: while bit 29 is set the feed is disabled, and on RISCV B and NC its third part is the old value. -/
theorem frozenStatusIsNotFed : Obligations.FrozenStatusIsNotFed := by
  refine fun b s => ⟨fun h₂₉ r hr => ?_, fun hkind j => ?_⟩
  · have hcsr : (applyBoundary b s).csr = s.csr := statusFeed_frozen h₂₉ ..
    simp only [statusStores, List.mem_cons, List.not_mem_nil, or_false] at hr
    obtain rfl | rfl | rfl | rfl | rfl | rfl | rfl | rfl | rfl | rfl := hr <;> simp only [readStore, hcsr]
  · simp only [readStore, applyBoundary_csr, ttCfgSstatus_statusFeed hkind]

section FeedWords

variable (k : CoreKind) (f : QstatusFeed) (g : BstatusFeed)

theorem orMask_qstatusWord : Qstatus.orMask (qstatusWord k f) = f.orMask := by
  unfold Qstatus.orMask qstatusWord
  rw [BitVec.extractLsb'_append_eq_of_le (by decide), BitVec.extractLsb'_append_eq_of_le (by decide),
    BitVec.extractLsb'_append_eq_of_le (by decide)]
  exact BitVec.extractLsb'_append_eq_right

theorem sfpuCc_qstatusWord : Qstatus.sfpuCc (qstatusWord k f) = f.sfpuCc := by
  unfold Qstatus.sfpuCc qstatusWord
  simp only
  rw [BitVec.getLsbD_append, BitVec.getLsbD_append]
  simp

theorem sfpuCcCopy_qstatusWord : Qstatus.sfpuCcCopy (qstatusWord k f) = f.sfpuCc := by
  unfold Qstatus.sfpuCcCopy qstatusWord
  rw [BitVec.getLsbD_append, BitVec.getLsbD_append, BitVec.getLsbD_append, BitVec.getLsbD_append,
    BitVec.getLsbD_append]
  simp

theorem queueMask_qstatusWord_of_isBOrNc (hk : isBOrNc k) : Qstatus.queueMask (qstatusWord k f) = f.orMask := by
  obtain rfl | rfl := hk <;> exact BitVec.extractLsb'_append_eq_right

theorem queueMask_qstatusWord_t (j : Nat) : Qstatus.queueMask (qstatusWord (.t j) f) = f.threadMask :=
  BitVec.extractLsb'_append_eq_right

theorem orMask_bstatusWord : Bstatus.orMask (bstatusWord k g) = g.orMask := by
  unfold Bstatus.orMask bstatusWord
  rw [BitVec.extractLsb'_append_eq_of_le (by decide)]
  exact BitVec.extractLsb'_append_eq_right

theorem busyMask_bstatusWord_of_isBOrNc (hk : isBOrNc k) : Bstatus.busyMask (bstatusWord k g) = g.orMask := by
  obtain rfl | rfl := hk <;> exact BitVec.extractLsb'_append_eq_right

theorem busyMask_bstatusWord_t (j : Nat) : Bstatus.busyMask (bstatusWord (.t j) g) = g.threadMask :=
  BitVec.extractLsb'_append_eq_right

end FeedWords

/-- A live feed writes the three status fields. -/
theorem statusFeed_live {csr : CsrFile} (h : Cfg0.disTTStatusReg csr.cfg0 = false) (k : CoreKind) (b : Boundary) :
    (statusFeed k b csr).ttCfgQstatus = (b.qstatus.map (qstatusWord k)).getD csr.ttCfgQstatus ∧
      (statusFeed k b csr).ttCfgBstatus = (b.bstatus.map (bstatusWord k)).getD csr.ttCfgBstatus ∧
      (statusFeed k b csr).ttCfgSstatus = sstatusAfter k b.sstatus csr.ttCfgSstatus := by
  simp [statusFeed, h]

/-- Settles O53: a live feed writes the words above, and a CSR that is not fed keeps its value. -/
theorem liveStatusFollowsTheFeed : Obligations.LiveStatusFollowsTheFeed := by
  intro b s h₂₉ t
  obtain ⟨hq, hb, hs⟩ := statusFeed_live (csr := s.csr) h₂₉ s.params.coreKind b
  have hqt : t.csr.ttCfgQstatus = _ := hq
  have hbt : t.csr.ttCfgBstatus = _ := hb
  have hst : t.csr.ttCfgSstatus = _ := hs
  refine ⟨fun f hf => ?_, fun g hg => ?_, fun hnone => ?_, fun hnone => ?_, fun j k hk => ?_⟩
  · have hword : t.csr.ttCfgQstatus = qstatusWord s.params.coreKind f := by rw [hqt, hf]; rfl
    rw [hword, orMask_qstatusWord, sfpuCc_qstatusWord, sfpuCcCopy_qstatusWord]
    refine ⟨rfl, rfl, rfl, fun hk => queueMask_qstatusWord_of_isBOrNc _ f hk, fun j hk => ?_⟩
    rw [hk, queueMask_qstatusWord_t]
  · have hword : t.csr.ttCfgBstatus = bstatusWord s.params.coreKind g := by rw [hbt, hg]; rfl
    rw [hword, orMask_bstatusWord]
    refine ⟨rfl, fun hk => busyMask_bstatusWord_of_isBOrNc _ g hk, fun j hk => ?_⟩
    rw [hk, busyMask_bstatusWord_t]
  · rw [hqt, hnone]
    rfl
  · rw [hbt, hnone]
    rfl
  · simp [readStore, hst, hk, sstatusAfter]

end Sys2Proof.Machine
end
